-- ==== Sys2Proof/Word.lean ====
section
/-! DEFINITION. The two word types of the display-control block (DCB): the 8-bit byte of the frame buffer and
the bus (00_scope.md R5, R6; 10_state.md R10), and the 32-bit request word (30_encoding.md R50). Every value of
the DCB is an unsigned integer of a stated width (00_scope.md R5). -/

namespace Sys2Proof

/-- An 8-bit value: a GRAM cell, a bus byte, an operand (00_scope.md R4 rows `CELL`, `OPW`). -/
abbrev Byte := BitVec 8

/-- A request word (00_scope.md R4 row `REQW`). -/
abbrev Word := BitVec 32

/-- `add8` of 00_scope.md R6: the sum at 8 bits, the carry out of bit 7 discarded. -/
abbrev add8 (a b : Byte) : Byte := a + b

end Sys2Proof
end

