-- ==== Sys2Proof/Config.lean ====
section
/-! DEFINITION. The constants of 00_scope.md R4, the parameters it leaves OPEN, and the one free value.
The OPEN parameters are plain data (`Params`) that State carries and no step writes, so that a statement about
every state holds for every value of them; the free value is an opaque constant, of which nothing can be proved. -/

namespace Sys2Proof

namespace Config

/-- `W`: width of the display and of GRAM, in columns (00_scope.md R4). -/
@[simp] abbrev W : Nat := 128

/-- `H`: height of the display in pixels (00_scope.md R4). -/
@[simp] abbrev H : Nat := 64

/-- `P`: number of pages, `H / 8` (00_scope.md R4). -/
@[simp] abbrev P : Nat := 8

/-- Number of GRAM cells, `P * W` (10_state.md R10). -/
@[simp] abbrev cells : Nat := 1024

/-- What a GRAM cell holds after reset, and so what a cell that memory does not list reads as
(10_state.md R12, R21: "zero-filled at construction"). -/
@[simp] abbrev gramResetByte : Byte := 0x00#8

/-- `RS_CMD`: the register-select value of a command byte (00_scope.md R4, 30_encoding.md R56). -/
@[simp] abbrev rsCmd : Byte := 0x00#8

/-- `RS_DATA`: the register-select value of a data byte (00_scope.md R4, 30_encoding.md R56). -/
@[simp] abbrev rsData : Byte := 0x40#8

/-- Default of the OPEN parameter `CP_DISABLE_ARG`. PRESUMED: the spec has it from general knowledge only
(30_encoding.md R60; log entry 5). Nothing but State.reset uses it. -/
abbrev cpDisableArgDefault : Byte := 0x10#8

/-- FREE VALUE (log entry 10): whether the bus byte in flight when reset strikes was delivered; 44_sequencer.md
R122 admits both. Applied to the draw counter of State. No body: nothing can be proved of its value. -/
opaque cutShortDelivered : Nat → Bool

end Config

/-- `RANGE_REVERSED_POLICY` of 00_scope.md R4: what REFRANGE does when `startCol > endCol` (43_refresh.md R101 b). -/
inductive RangePolicy where
  /-- send the position, no data: the default -/
  | setposOnly
  /-- send nothing -/
  | noop
  /-- the run has no meaning (60_exceptions.md R143) -/
  | refuse
deriving DecidableEq, Repr

/-- The parameters that 00_scope.md R4 marks OPEN and that an operation reads (log entries 5, 6). `bus_ok`, which is
an input port too (10_state.md R22), is the field `busOk` of State; `T_SETTLE` has no number and no rule needs one
(log entry 12). -/
structure Params where
  /-- the argument byte of "charge-pump disable" (30_encoding.md R60) -/
  cpDisableArg : Byte
  /-- the policy for a reversed column span (43_refresh.md R101) -/
  rangeReversed : RangePolicy
deriving DecidableEq, Repr

end Sys2Proof
end

