-- ==== Sys2Proof/Syntax.lean ====
section
/-! DEFINITION. The syntax of the DCB: the ten operations a requester can ask for (30_encoding.md R50 to R55) and
the 23 bus rows, the words the DCB itself gives the display (30_encoding.md R56 to R60); one constructor for every
row of spec/opcode_table.json. Also the bus event (20_memory.md R36) and the pseudo-operations (30_encoding.md R63). -/

namespace Sys2Proof

/-- The colour operand of PIXSET (30_encoding.md R54). -/
inductive Color where
  | black
  | white
  | inverse
  /-- `C[1:0] = 3`: decodes as PIXSET and changes nothing (30_encoding.md R53, R54; 90_conflicts.md C11) -/
  | reserved3
deriving DecidableEq, Repr

/-- The register-select tag of a bus event: command or data, and no other (20_memory.md R36). -/
inductive Tag where
  | cmd
  | data
deriving DecidableEq, Repr

/-- One bus write, the pair `(rs, byte)` of 20_memory.md R36. -/
structure BusEvent where
  tag : Tag
  byte : Byte
deriving DecidableEq, Repr

/-- One constructor for every row of spec/opcode_table.json. Operand fields that an operation ignores
(30_encoding.md R50, R51) are no part of the instruction. -/
inductive Instr where
  /-- INIT (42_init_and_power.md R90) -/
  | init
  /-- SETPOS x, page (41_addressing_and_data.md R80) -/
  | setpos (x page : Byte)
  /-- DATA b (41_addressing_and_data.md R81) -/
  | data (b : Byte)
  /-- WAKE (42_init_and_power.md R91) -/
  | wake
  /-- SLEEP (42_init_and_power.md R92) -/
  | sleep
  /-- REFRESH (43_refresh.md R100) -/
  | refresh
  /-- REFRANGE page, startCol, endCol (43_refresh.md R101) -/
  | refrange (page startCol endCol : Byte)
  /-- PIXSET x, y, color (40_framebuffer_ops.md R70) -/
  | pixset (x y : Byte) (color : Color)
  /-- CLEAR (40_framebuffer_ops.md R71) -/
  | clear
  /-- PIXGET x, y (40_framebuffer_ops.md R72) -/
  | pixget (x y : Byte)
  /-- BUS.PAGESEL: first byte of the triplet, page 0 to 7 (30_encoding.md R57) -/
  | busPagesel (page : BitVec 3)
  /-- BUS.COLHI: second byte of the triplet, `x[7:4]` (30_encoding.md R57) -/
  | busColhi (h : BitVec 4)
  /-- BUS.COLLO: third byte of the triplet, `x[3:0]` (30_encoding.md R57) -/
  | busCollo (l : BitVec 4)
  /-- BUS.DATA: a data byte (30_encoding.md R56) -/
  | busData (b : Byte)
  /-- BUS.DISPOFF: `INIT_SEQ[0]`, `SLEEP_SEQ[2]` (30_encoding.md R58 to R60, as for all the rows below) -/
  | busDispoff
  /-- BUS.INIT_COLLO0: `INIT_SEQ[1]` -/
  | busInitCollo0
  /-- BUS.INIT_COLHI0: `INIT_SEQ[2]` -/
  | busInitColhi0
  /-- BUS.STARTLINE0: `INIT_SEQ[3]` -/
  | busStartline0
  /-- BUS.INIT_PAGE0: `INIT_SEQ[4]` -/
  | busInitPage0
  /-- BUS.CONTRAST: `INIT_SEQ[5..6]`, two events -/
  | busContrast
  /-- BUS.SEGREMAP: `INIT_SEQ[7]` -/
  | busSegremap
  /-- BUS.A6: `INIT_SEQ[8]` -/
  | busA6
  /-- BUS.MUXRATIO: `INIT_SEQ[9..10]`, two events -/
  | busMuxratio
  /-- BUS.COMSCAN: `INIT_SEQ[11]` -/
  | busComscan
  /-- BUS.DISPOFFSET: `INIT_SEQ[12..13]`, two events -/
  | busDispoffset
  /-- BUS.OSCDIV: `INIT_SEQ[14..15]`, two events -/
  | busOscdiv
  /-- BUS.D8: `INIT_SEQ[16..17]`, two events -/
  | busD8
  /-- BUS.PRECHARGE: `INIT_SEQ[18..19]`, two events -/
  | busPrecharge
  /-- BUS.COMPINS: `INIT_SEQ[20..21]`, two events -/
  | busCompins
  /-- BUS.VCOMH: `INIT_SEQ[22..23]`, two events -/
  | busVcomh
  /-- BUS.CPENABLE: `INIT_SEQ[24..25]`, `WAKE_SEQ[0..1]`, two events -/
  | busCpenable
  /-- BUS.DISPON: `INIT_SEQ[26]`, `WAKE_SEQ[2]` -/
  | busDispon
  /-- BUS.CPDISABLE: `SLEEP_SEQ[0..1]`, two events, the second the parameter `CP_DISABLE_ARG` -/
  | busCpdisable
deriving DecidableEq, Repr

/-- The pseudo-operations of 30_encoding.md R63. -/
inductive Pseudo where
  | toggle (x y : Byte)
  | sync
  | clrdisp
  | shutdown
  | direct (x page : Byte) (bytes : List Byte)
deriving DecidableEq, Repr

end Sys2Proof
end

