-- ==== Sys2Proof/WellFormed.lean ====
section
/-! DEFINITION. Which instructions are well formed: those that are the one name of their words.
Every request operation is, with any operands: SETPOS and REFRANGE take every 8-bit value (30_encoding.md R55;
41_addressing_and_data.md R80 checks nothing, 43_refresh.md R101 checks when it runs), and a PIXSET of colour 3
decodes as PIXSET (90_conflicts.md C11). A bus word that opcode_table.json lists under two rows ("same pattern as
BUS.PAGESEL", "… BUS.COLHI", "… BUS.COLLO") is named by the narrower row, so the triplet rows exclude field 0 (log
entry 14). -/

namespace Sys2Proof

/-- The instruction is the one name its words decode to. -/
def Instr.wellFormed : Instr → Bool
  | .busPagesel page => page != 0
  | .busColhi h => h != 0
  | .busCollo l => l != 0
  | .init | .setpos _ _ | .data _ | .wake | .sleep | .refresh | .refrange _ _ _ | .pixset _ _ _ | .clear
  | .pixget _ _ => true
  | .busData _ | .busDispoff | .busInitCollo0 | .busInitColhi0 | .busStartline0 | .busInitPage0 | .busContrast
  | .busSegremap | .busA6 | .busMuxratio | .busComscan | .busDispoffset | .busOscdiv | .busD8 | .busPrecharge
  | .busCompins | .busVcomh | .busCpenable | .busDispon | .busCpdisable => true

end Sys2Proof
end

