-- ==== Sys2Proof/Decode.lean ====
section
/-! DEFINITION. Decoding and encoding: the request word (30_encoding.md R50 to R55) and the bus words
(30_encoding.md R56 to R60). Decoding is total and rejects by name. -/

namespace Sys2Proof

/-! ## Fields of the request word (30_encoding.md R50) -/

/-- `OP`, bits 31:28. -/
def opField (w : Word) : BitVec 4 := w.extractLsb' 28 4

/-- `Z`, bits 27:24. -/
def zField (w : Word) : BitVec 4 := w.extractLsb' 24 4

/-- `C`, bits 23:16. -/
def cField (w : Word) : Byte := w.extractLsb' 16 8

/-- `B`, bits 15:8. -/
def bField (w : Word) : Byte := w.extractLsb' 8 8

/-- `A`, bits 7:0. -/
def aField (w : Word) : Byte := w.extractLsb' 0 8

/-- A request word from its fields, `OP || 0000 || C || B || A`. -/
def mkRequest (op : BitVec 4) (c b a : Byte) : Word := op ++ (0#4 ++ (c ++ (b ++ a)))

/-- 30_encoding.md R54: the colour of `C[1:0]`. -/
def Color.ofBits (c : BitVec 2) : Color :=
  match c.toNat with
  | 0 => .black
  | 1 => .white
  | 2 => .inverse
  | _ => .reserved3

/-- 30_encoding.md R54: the code of a colour. -/
def Color.toBits : Color → BitVec 2
  | .black => 0#2
  | .white => 1#2
  | .inverse => 2#2
  | .reserved3 => 3#2

/-- Why a word is no instruction. The first three are the reserved request words of 30_encoding.md R53 (colour 3
is not among them: it decodes as PIXSET, 90_conflicts.md C11). -/
inductive DecodeError where
  /-- `Z ≠ 0` -/
  | reservedZ (z : BitVec 4)
  /-- `OP` is 0x7 or 0xB to 0xF -/
  | reservedOpcode (op : BitVec 4)
  /-- PIXSET with `C[7:2] ≠ 0` -/
  | reservedColourBits (c : Byte)
  /-- a bus word whose register-select value is neither 0x00 nor 0x40 (30_encoding.md R56) -/
  | badRegisterSelect (rs : Byte)
  /-- a command byte (or pair) that is no row of the opcode table -/
  | noBusRow (w : Word)
deriving DecidableEq, Repr

/-- The request decoder: 30_encoding.md R52, R53. -/
def decodeRequest (w : Word) : Except DecodeError Instr :=
  if zField w ≠ 0#4 then .error (.reservedZ (zField w))
  else
    match (opField w).toNat with
    | 0x0 => .ok .init
    | 0x1 => .ok (.setpos (aField w) (bField w))
    | 0x2 => .ok (.data (aField w))
    | 0x3 => .ok .wake
    | 0x4 => .ok .sleep
    | 0x5 => .ok .refresh
    | 0x6 => .ok (.refrange (aField w) (bField w) (cField w))
    | 0x8 =>
      if (cField w).extractLsb' 2 6 ≠ 0#6 then .error (.reservedColourBits (cField w))
      else .ok (.pixset (aField w) (bField w) (Color.ofBits ((cField w).extractLsb' 0 2)))
    | 0x9 => .ok .clear
    | 0xA => .ok (.pixget (aField w) (bField w))
    | _ => .error (.reservedOpcode (opField w))

/-! ## Bus words (30_encoding.md R56) -/

/-- The register-select value of a tag (30_encoding.md R56). -/
def Tag.code : Tag → Byte
  | .cmd => Config.rsCmd
  | .data => Config.rsData

/-- The 16-bit word of a bus event, `rs || byte` (30_encoding.md R56). -/
def BusEvent.word (e : BusEvent) : BitVec 16 := e.tag.code ++ e.byte

/-- The one-event bus rows whose word opcode_table.json fixes whole. -/
def fixedBusRows : List (BitVec 16 × Instr) :=
  [ (0x00AE#16, .busDispoff), (0x0000#16, .busInitCollo0), (0x0010#16, .busInitColhi0),
    (0x0040#16, .busStartline0), (0x00B0#16, .busInitPage0), (0x00A1#16, .busSegremap),
    (0x00A6#16, .busA6), (0x00C8#16, .busComscan), (0x00AF#16, .busDispon) ]

/-- The two-event bus rows (`BUS2`): two words, the first in the high half. -/
def pairBusRows : List (Word × Instr) :=
  [ (0x008100FF#32, .busContrast), (0x00A8003F#32, .busMuxratio), (0x00D30000#32, .busDispoffset),
    (0x00D50080#32, .busOscdiv), (0x00D80005#32, .busD8), (0x00D900F1#32, .busPrecharge),
    (0x00DA0012#32, .busCompins), (0x00DB0030#32, .busVcomh), (0x008D0014#32, .busCpenable),
    (0x008D0010#32, .busCpdisable) ]

/-- One bus word to its row: the rows with a fixed word first, then the rows with a field (30_encoding.md R57, R58;
log entry 14). -/
def decodeBus (w : BitVec 16) : Except DecodeError Instr :=
  match fixedBusRows.lookup w with
  | some i => .ok i
  | none =>
    let rs := w.extractLsb' 8 8
    let b : Byte := w.extractLsb' 0 8
    if rs = Config.rsData then .ok (.busData b)
    else if rs ≠ Config.rsCmd then .error (.badRegisterSelect rs)
    else if b.extractLsb' 3 5 = 0b10110#5 then .ok (.busPagesel (b.extractLsb' 0 3))
    else if b.extractLsb' 4 4 = 0b0001#4 then .ok (.busColhi (b.extractLsb' 0 4))
    else if b.extractLsb' 4 4 = 0b0000#4 then .ok (.busCollo (b.extractLsb' 0 4))
    else .error (.noBusRow (w.setWidth 32))

/-- Two bus words in a row to their two-event row (30_encoding.md R58, R60). -/
def decodeBusPair (w : Word) : Except DecodeError Instr :=
  match pairBusRows.lookup w with
  | some i => .ok i
  | none => .error (.noBusRow w)

/-! ## The words of an instruction, by the port they stand on -/

/-- A request word on the request port, one bus word, or two bus words on the bus port. -/
inductive Encoded where
  | request (w : Word)
  | bus (w : BitVec 16)
  | busPair (w : Word)
deriving DecidableEq, Repr

/-- The decoder, total on every word of every port. -/
def decode : Encoded → Except DecodeError Instr
  | .request w => decodeRequest w
  | .bus w => decodeBus w
  | .busPair w => decodeBusPair w

/-- The encoder, from the tables of 30_encoding.md R52, R57, R58, R60. Ignored fields are written as zeros. -/
def encode : Instr → Encoded
  | .init => .request (mkRequest 0x0#4 0 0 0)
  | .setpos x page => .request (mkRequest 0x1#4 0 page x)
  | .data b => .request (mkRequest 0x2#4 0 0 b)
  | .wake => .request (mkRequest 0x3#4 0 0 0)
  | .sleep => .request (mkRequest 0x4#4 0 0 0)
  | .refresh => .request (mkRequest 0x5#4 0 0 0)
  | .refrange page startCol endCol => .request (mkRequest 0x6#4 endCol startCol page)
  | .pixset x y color => .request (mkRequest 0x8#4 (0#6 ++ color.toBits) y x)
  | .clear => .request (mkRequest 0x9#4 0 0 0)
  | .pixget x y => .request (mkRequest 0xA#4 0 y x)
  | .busPagesel page => .bus (0x00#8 ++ (0b10110#5 ++ page))
  | .busColhi h => .bus (0x00#8 ++ (0b0001#4 ++ h))
  | .busCollo l => .bus (0x00#8 ++ (0b0000#4 ++ l))
  | .busData b => .bus (0x40#8 ++ b)
  | .busDispoff => .bus 0x00AE#16
  | .busInitCollo0 => .bus 0x0000#16
  | .busInitColhi0 => .bus 0x0010#16
  | .busStartline0 => .bus 0x0040#16
  | .busInitPage0 => .bus 0x00B0#16
  | .busContrast => .busPair 0x008100FF#32
  | .busSegremap => .bus 0x00A1#16
  | .busA6 => .bus 0x00A6#16
  | .busMuxratio => .busPair 0x00A8003F#32
  | .busComscan => .bus 0x00C8#16
  | .busDispoffset => .busPair 0x00D30000#32
  | .busOscdiv => .busPair 0x00D50080#32
  | .busD8 => .busPair 0x00D80005#32
  | .busPrecharge => .busPair 0x00D900F1#32
  | .busCompins => .busPair 0x00DA0012#32
  | .busVcomh => .busPair 0x00DB0030#32
  | .busCpenable => .busPair 0x008D0014#32
  | .busDispon => .bus 0x00AF#16
  | .busCpdisable => .busPair 0x008D0010#32

/-- The bits of the request word that an operation reads; the rest may hold any value (30_encoding.md R50, R51). -/
def careMask : Instr → Word
  | .setpos _ _ | .pixget _ _ => 0xFF00FFFF#32
  | .data _ => 0xFF0000FF#32
  | .refrange _ _ _ | .pixset _ _ _ => 0xFFFFFFFF#32
  | .init | .wake | .sleep | .refresh | .clear => 0xFF000000#32
  | .busPagesel _ | .busColhi _ | .busCollo _ | .busData _ | .busDispoff | .busInitCollo0 | .busInitColhi0
  | .busStartline0 | .busInitPage0 | .busContrast | .busSegremap | .busA6 | .busMuxratio | .busComscan
  | .busDispoffset | .busOscdiv | .busD8 | .busPrecharge | .busCompins | .busVcomh | .busCpenable | .busDispon
  | .busCpdisable => 0xFFFFFFFF#32

/-- A row of the opcode map of 30_encoding.md R52: a word `w` selects the row whose `(w & mask) = pattern`. -/
structure OpcodeRow where
  pattern : Word
  mask : Word
  /-- an instruction of the row, for its constructor -/
  sample : Instr
deriving DecidableEq, Repr

/-- 30_encoding.md R52's table, in its order. -/
def opcodeMap : List OpcodeRow :=
  [ ⟨0x00000000#32, 0xFF000000#32, .init⟩, ⟨0x10000000#32, 0xFF000000#32, .setpos 0 0⟩,
    ⟨0x20000000#32, 0xFF000000#32, .data 0⟩, ⟨0x30000000#32, 0xFF000000#32, .wake⟩,
    ⟨0x40000000#32, 0xFF000000#32, .sleep⟩, ⟨0x50000000#32, 0xFF000000#32, .refresh⟩,
    ⟨0x60000000#32, 0xFF000000#32, .refrange 0 0 0⟩, ⟨0x80000000#32, 0xFFFC0000#32, .pixset 0 0 .black⟩,
    ⟨0x90000000#32, 0xFF000000#32, .clear⟩, ⟨0xA0000000#32, 0xFF000000#32, .pixget 0 0⟩ ]

/-- The request operation code of an instruction, none for a bus row (30_encoding.md R52). -/
def Instr.opcode : Instr → Option (BitVec 4)
  | .init => some 0x0#4
  | .setpos _ _ => some 0x1#4
  | .data _ => some 0x2#4
  | .wake => some 0x3#4
  | .sleep => some 0x4#4
  | .refresh => some 0x5#4
  | .refrange _ _ _ => some 0x6#4
  | .pixset _ _ _ => some 0x8#4
  | .clear => some 0x9#4
  | .pixget _ _ => some 0xA#4
  | .busPagesel _ | .busColhi _ | .busCollo _ | .busData _ | .busDispoff | .busInitCollo0 | .busInitColhi0
  | .busStartline0 | .busInitPage0 | .busContrast | .busSegremap | .busA6 | .busMuxratio | .busComscan
  | .busDispoffset | .busOscdiv | .busD8 | .busPrecharge | .busCompins | .busVcomh | .busCpenable | .busDispon
  | .busCpdisable => none

/-- The instruction of a row of spec/opcode_table.json, from its bits alone. The table lists request rows of 32
bits, bus rows of 16 and pairs of bus rows of 32; the ten pair words, each fixed whole, are taken before the request
words, whose INIT row (mask 0xFF000000) admits them too. On the request port itself (decodeRequest) such a word is
INIT (log entry 14). -/
def decodeTableWord (nbits w : Nat) : Option Instr :=
  if nbits ≤ 16 then (decodeBus (BitVec.ofNat 16 w)).toOption
  else
    match decodeBusPair (BitVec.ofNat 32 w) with
    | .ok i => some i
    | .error _ => (decodeRequest (BitVec.ofNat 32 w)).toOption

end Sys2Proof
end

