-- ==== Sys2Proof/Machine/State.lean ====
section
/-! DEFINITION. The state of the DCB (10_state.md R10 to R22) and its environment (10_state.md R20), the reasons a
step can stop, and the state after reset (10_state.md R21, 70_reset_and_hazards.md R151). Plain data throughout. -/

namespace Sys2Proof.Machine

/-- GRAM as the list of the cells that differ from the reset value, by linear address `page * 128 + column`
(20_memory.md R31), addresses strictly rising. -/
abbrev Memory := List Host.Cell

/-- `SEQ.st` of 10_state.md R15 (codes 0 to 4; 5 to 7 never occur). -/
inductive SeqSt where
  /-- IDLE -/
  | idle
  /-- S_LIST -/
  | list
  /-- S_POS -/
  | pos
  /-- S_STREAM -/
  | stream
  /-- S_DATA -/
  | data
deriving DecidableEq, Repr

/-- `SEQ.list` of 10_state.md R15 (codes 0 to 2; 3 never occurs). -/
inductive SeqList where
  | init
  | wake
  | sleep
deriving DecidableEq, Repr

/-- The sequencer registers `SEQ` of 10_state.md R15. -/
structure Seq where
  /-- `SEQ.st`: which kind of byte is emitted next -/
  st : SeqSt
  /-- `SEQ.list`: which fixed byte list S_LIST walks -/
  list : SeqList
  /-- `SEQ.i`: index of the next byte of the list or of the triplet -/
  i : BitVec 5
  /-- `SEQ.pg`: page operand of the triplet and page being streamed -/
  pg : Byte
  /-- `SEQ.x`: column operand of the triplet -/
  x : Byte
  /-- `SEQ.col`: next column to stream -/
  col : Byte
  /-- `SEQ.end`: last column to stream, inclusive -/
  last : Byte
  /-- `SEQ.full`: after the last column of a page go on to the next page -/
  full : Bool
  /-- `SEQ.strm`: after the triplet, stream data -/
  strm : Bool
deriving DecidableEq, Repr

/-- The response port of 10_state.md R22: `rsp_valid`, `rsp[0]`. -/
structure Response where
  valid : Bool
  bit : Bool
deriving DecidableEq, Repr

/-- The bus port of 10_state.md R22: `bus_valid`, `bus_rs[7:0]`, `bus_byte[7:0]`. -/
structure BusPort where
  valid : Bool
  rs : Byte
  byte : Byte
deriving DecidableEq, Repr

/-- The MODEL's own choice of how much one step does (log entry 2): 92_eei_decisions.md D22 admits both. -/
inductive Grain where
  /-- one step runs one row of the opcode table: a whole operation (40 to 43) when idle -/
  | operation
  /-- one step accepts a request or makes one bus write (44_sequencer.md) -/
  | busWrite
deriving DecidableEq, Repr

/-- Everything the spec gives the block, and what its rules need of the environment. -/
structure State where
  /-- `GRAM` (10_state.md R10) -/
  gram : Memory
  /-- `READY` (10_state.md R13) -/
  ready : Bool
  /-- `REQ`, the request latch (10_state.md R14) -/
  req : Word
  /-- `SEQ` (10_state.md R15) -/
  seq : Seq
  /-- response port, outputs (10_state.md R22) -/
  rsp : Response
  /-- bus port, outputs (10_state.md R22) -/
  bus : BusPort
  /-- `TRACE`, environment: the bus events delivered to the display since reset, oldest first (10_state.md R20 a; what
  a reset in the middle of an operation leaves of it: log entry 10) -/
  trace : List BusEvent
  /-- environment: the words the requester has still to issue; the head is on `req` with `req_valid` = 1
  (10_state.md R22, 44_sequencer.md R121; log entry 1) -/
  requests : List Word
  /-- input `bus_ok` (10_state.md R20 b, R22); no step writes it (92_eei_decisions.md D15) -/
  busOk : Bool
  /-- input `bus_done`: the transport answers a bus write (10_state.md R22, 44_sequencer.md R117, R120) -/
  busDone : Bool
  /-- input `rst`, asserted for the coming step only (10_state.md R22; log entry 11) -/
  rst : Bool
  /-- the OPEN parameters of 00_scope.md R4; no step writes them -/
  params : Params
  /-- MODEL's own: what one step is (log entry 2); no step writes it -/
  grain : Grain
  /-- MODEL's own: how many settle delays `T_SETTLE` have passed, one a bus write (20_memory.md R38; log entry 12) -/
  settles : Nat
  /-- MODEL's own: the draw counter that the free value is applied to (log entry 13) -/
  draws : Nat
deriving DecidableEq, Repr

/-- Why the machine stops with nothing more to do. -/
inductive Fault where
  /-- raised by the S_STREAM step when `SEQ.pg` or `SEQ.col` is outside GRAM (20_memory.md R33); only in a state no
  run reaches (44_sequencer.md R116). Safe: the machine stops. -/
  | gramOutOfRange
  /-- raised by a sequencer step whose `SEQ.i` is past the list or the triplet (10_state.md R15); only in a state no
  run reaches. Safe: the machine stops. -/
  | illegalSequencer
  /-- raised by an operation-level bus write when `bus_done` stays 0: the stuck run of 44_sequencer.md R120
  (93_implementation_defined.md U10). Safe: the machine stops. -/
  | transportStalled
deriving DecidableEq, Repr

/-- Why the model gives a step no meaning. -/
inductive Refusal where
  /-- raised by an arm of exec that has no meaning yet (none in this model). Safe. -/
  | notModelled (mnemonic : String)
  /-- raised by REFRANGE with `startCol > endCol` under `RANGE_REVERSED_POLICY = refuse` only (60_exceptions.md
  R143, 43_refresh.md R101 b). Safe. -/
  | reversedRange
  /-- raised by PIXGET with `x ≥ 128` or `y ≥ 64` (40_framebuffer_ops.md R72: "a model refuses such a PIXGET"; 60_exceptions.md
  R143; log entry 9). Safe: the model gives such a run no meaning. -/
  | pixgetOutside
  /-- raised by a request operation when the sequencer is not idle, which no step does (60_exceptions.md R143: "a
  request issued while busy"). Safe. -/
  | requestWhileBusy
deriving DecidableEq, Repr

/-- `SEQ` after reset: `st` is IDLE (10_state.md R21); the other fields are unspecified there and set to zero here
(log entry 8). -/
def Seq.reset : Seq where
  st := .idle
  list := .init
  i := 0#5
  pg := 0x00#8
  x := 0x00#8
  col := 0x00#8
  last := 0x00#8
  full := false
  strm := false

/-- The machine right after reset (10_state.md R21, 70_reset_and_hazards.md R151); the inputs, the parameters and the
model's own fields as the log says (entries 1 to 6, 8, 11 to 13, 18). -/
def State.reset : State where
  gram := []
  ready := false
  req := 0x00000000#32
  seq := Seq.reset
  rsp := { valid := false, bit := false }
  bus := { valid := false, rs := 0x00#8, byte := 0x00#8 }
  trace := []
  requests := []
  busOk := true
  busDone := true
  rst := false
  params := { cpDisableArg := Config.cpDisableArgDefault, rangeReversed := .setposOnly }
  grain := .operation
  settles := 0
  draws := 0

end Sys2Proof.Machine
end

