-- ==== Sys2Proof/Machine/Operands.lean ====
section
/-! DEFINITION. The operand forms: pixel coordinates to a cell and a mask (00_scope.md R7), the linear GRAM address
(20_memory.md R31), the addressing triplet (30_encoding.md R57), the fixed byte lists (30_encoding.md R58, R60) and
the bus events made of them. There are no immediates to assemble (30_encoding.md R55). -/

namespace Sys2Proof.Machine

/-! ## Pixels (00_scope.md R7, 10_state.md R11) -/

/-- `page = y / 8`. -/
def pageOf (y : Byte) : Nat := y.toNat / 8

/-- `bit = y % 8`. -/
def bitOf (y : Byte) : Nat := y.toNat % 8

/-- `mask = 1 << bit`, at 8 bits. -/
def maskOf (y : Byte) : Byte := 1#8 <<< bitOf y

/-- The colour operations of 00_scope.md R7 on one cell; colour 3 changes nothing (40_framebuffer_ops.md R70). -/
def applyColor (color : Color) (cell mask : Byte) : Byte :=
  match color with
  | .white => cell ||| mask
  | .black => cell &&& ~~~mask
  | .inverse => cell ^^^ mask
  | .reserved3 => cell

/-- 20_memory.md R31: the linear address of cell `(page, column)`. -/
def cellAddr (page column : Nat) : Nat := page * 128 + column

/-! ## The addressing triplet (30_encoding.md R57) -/

/-- PAGESEL: `add8(0xB0, page)`. -/
def pageSel (page : Byte) : Byte := add8 0xB0#8 page

/-- COLHI: `0x10 | ((x & 0xF0) >> 4)`. -/
def colHi (x : Byte) : Byte := 0x10#8 ||| ((x &&& 0xF0#8) >>> 4)

/-- COLLO: `x & 0x0F`. -/
def colLo (x : Byte) : Byte := x &&& 0x0F#8

/-- The event of `BusCmd(b)` (00_scope.md R8). -/
def cmdEvent (b : Byte) : BusEvent := { tag := .cmd, byte := b }

/-- The event of `BusData(b)` (00_scope.md R8). -/
def dataEvent (b : Byte) : BusEvent := { tag := .data, byte := b }

/-- The three command events that set the position `(x, page)`, in the order of 30_encoding.md R57. -/
def triplet (x page : Byte) : List BusEvent :=
  [cmdEvent (pageSel page), cmdEvent (colHi x), cmdEvent (colLo x)]

/-! ## The fixed byte lists -/

/-- `INIT_SEQ`, 30_encoding.md R58. -/
def initSeq : List Byte :=
  [ 0xAE#8, 0x00#8, 0x10#8, 0x40#8, 0xB0#8, 0x81#8, 0xFF#8, 0xA1#8, 0xA6#8, 0xA8#8, 0x3F#8, 0xC8#8, 0xD3#8, 0x00#8,
    0xD5#8, 0x80#8, 0xD8#8, 0x05#8, 0xD9#8, 0xF1#8, 0xDA#8, 0x12#8, 0xDB#8, 0x30#8, 0x8D#8, 0x14#8, 0xAF#8 ]

/-- `WAKE_SEQ`, 30_encoding.md R60. -/
def wakeSeq : List Byte := [0x8D#8, 0x14#8, 0xAF#8]

/-- `SLEEP_SEQ`, 30_encoding.md R60, with the parameter `CP_DISABLE_ARG`. -/
def sleepSeq (p : Params) : List Byte := [0x8D#8, p.cpDisableArg, 0xAE#8]

/-- The list that `SEQ.list` names (44_sequencer.md R113): the read-only space SEQROM of 20_memory.md R30. -/
def seqRom (p : Params) : SeqList → List Byte
  | .init => initSeq
  | .wake => wakeSeq
  | .sleep => sleepSeq p

/-! ## Codes of the sequencer registers (10_state.md R15) -/

/-- The 3-bit code of `SEQ.st`. -/
def SeqSt.code : SeqSt → BitVec 3
  | .idle => 0#3
  | .list => 1#3
  | .pos => 2#3
  | .stream => 3#3
  | .data => 4#3

/-- The 2-bit code of `SEQ.list`. -/
def SeqList.code : SeqList → BitVec 2
  | .init => 0#2
  | .wake => 1#2
  | .sleep => 2#2

end Sys2Proof.Machine
end

