-- ==== Sys2Proof/Machine/Flags.lean ====
section
/-! DEFINITION. The one flag READY and the derived status outputs (10_state.md R13, R18, R19, R22), and the range
tests, which set no flag (10_state.md R18, 92_eei_decisions.md D29). -/

namespace Sys2Proof.Machine

/-- `busy = (SEQ.st ≠ IDLE)` (10_state.md R18, R22). -/
def State.busy (s : State) : Bool := s.seq.st != .idle

/-- `req_ready = (SEQ.st = IDLE)` (10_state.md R22). -/
def State.reqReady (s : State) : Bool := s.seq.st == .idle

/-- `req_valid`: the requester presents a word (10_state.md R22). -/
def State.reqValid (s : State) : Bool := !s.requests.isEmpty

/-- The output `ready`: the READY flag, level (10_state.md R22). -/
def State.readyOut (s : State) : Bool := s.ready

/-- Write READY, as INIT does (10_state.md R13). -/
def State.setReady (v : Bool) (s : State) : State := { s with ready := v }

/-- PIXSET's and PIXGET's test on the operands as given: `x < W` and `y < H`, unsigned (40_framebuffer_ops.md R70). -/
def pixelInRange (x y : Byte) : Bool := decide (x.toNat < Config.W ∧ y.toNat < Config.H)

/-- REFRANGE's validation: `page < P` and both columns `< W`, unsigned (43_refresh.md R101). -/
def rangeValid (page startCol endCol : Byte) : Bool :=
  decide (page.toNat < Config.P ∧ startCol.toNat < Config.W ∧ endCol.toNat < Config.W)

end Sys2Proof.Machine
end

