-- ==== Sys2Proof/Machine/Ops.lean ====
section
/-! DEFINITION. The shared operations: reading and writing GRAM in its canonical form (10_state.md R10, R12;
20_memory.md R31 to R33), bus writes (20_memory.md R36 to R38), completion (00_scope.md R8 `done`), and reset.
There is no exception to take and none to return from (60_exceptions.md R138, R139), so there is no such operation. -/

namespace Sys2Proof.Machine

/-- What a meaning or a step answers. -/
abbrev Result := Host.Outcome State Fault Refusal

/-- Go on with `f` if the first part answers a next state. -/
def andThen (r : Result) (f : State → Result) : Result :=
  match r with
  | .next s => f s
  | .fault e => .fault e
  | .refused e => .refused e

/-! ## GRAM -/

/-- The cell at a linear address; an address not listed reads as the reset value (10_state.md R12). -/
def Memory.read : Memory → Nat → Byte
  | [], _ => Config.gramResetByte
  | (b, v) :: m, a => if a = b then v else Memory.read m a

/-- Write one cell, keeping the canonical form: the reset value is not listed. -/
def Memory.write : Memory → Nat → Byte → Memory
  | [], a, v => if v = Config.gramResetByte then [] else [(a, v)]
  | (b, u) :: m, a, v =>
    if a < b then (if v = Config.gramResetByte then (b, u) :: m else (a, v) :: (b, u) :: m)
    else if a = b then (if v = Config.gramResetByte then m else (a, v) :: m)
    else (b, u) :: Memory.write m a v

/-- The canonical form from address `lo` up: addresses strictly rising and inside GRAM, no reset value listed. -/
def Memory.wfFrom : Nat → Memory → Bool
  | _, [] => true
  | lo, (a, v) :: m =>
    decide (lo ≤ a) && decide (a < Config.cells) && (v != Config.gramResetByte) && Memory.wfFrom (a + 1) m

/-- The canonical form of GRAM. -/
def Memory.wf (m : Memory) : Bool := Memory.wfFrom 0 m

/-- `GRAM[page][column]` (00_scope.md R8), for a cell that exists. -/
def State.cell (s : State) (page column : Nat) : Byte := s.gram.read (cellAddr page column)

/-- The pixel `(x, y)`: bit `y % 8` of cell `[y / 8][x]` (10_state.md R11). -/
def State.pixel (s : State) (x y : Nat) : Bool := (s.cell (y / 8) x).getLsbD (y % 8)

/-- `GRAM[page][column] <- v` (00_scope.md R8), for a cell that exists. -/
def State.setCell (page column : Nat) (v : Byte) (s : State) : State :=
  { s with gram := s.gram.write (cellAddr page column) v }

/-- `GRAM[page][column]` where the indices are register contents: an index outside the array has no cell
(20_memory.md R33). -/
def State.cellChecked (s : State) (page column : Nat) : Except Fault Byte :=
  if page < Config.P ∧ column < Config.W then .ok (s.cell page column) else .error .gramOutOfRange

/-! ## Completion -/

/-- `done(v)`: the DCB is idle again, with result `v` on the response port (00_scope.md R8, 44_sequencer.md
`finish`). -/
def State.done (v : Bool) (s : State) : State :=
  { s with seq := { s.seq with st := .idle }, rsp := { valid := true, bit := v } }

/-- `rsp_valid` back to 0: it pulses for the one step that completes an operation (10_state.md R22). -/
def State.quiet (s : State) : State := { s with rsp := { s.rsp with valid := false } }

/-! ## Bus writes -/

/-- `bus_valid` raised with an event, not yet taken (44_sequencer.md R117). DESIGN CHOICE (log entry 24): TRACE does not
hold the event yet, and gains it when `bus_done` answers; 00_scope.md R8 appends it before the settle wait, R9 (3)
delivers the byte after it. -/
def State.present (e : BusEvent) (s : State) : State :=
  { s with bus := { valid := true, rs := e.tag.code, byte := e.byte }, rsp := { s.rsp with valid := false } }

/-- One bus write taken and settled: the event is appended to TRACE if `bus_ok` (00_scope.md R8, 20_memory.md R38). -/
def State.deliver (e : BusEvent) (s : State) : State :=
  { s with
    trace := if s.busOk then s.trace ++ [e] else s.trace
    settles := s.settles + 1
    bus := { valid := false, rs := e.tag.code, byte := e.byte }
    rsp := { s.rsp with valid := false } }

/-- The bus port after writing some events in order: the last event's values, no write pending. -/
def BusPort.after (b : BusPort) (es : List BusEvent) : BusPort :=
  match es.getLast? with
  | none => b
  | some e => { valid := false, rs := e.tag.code, byte := e.byte }

/-- Several bus writes in order (20_memory.md R37): `deliver` for each event, said at once. -/
def State.deliverAll (es : List BusEvent) (s : State) : State :=
  { s with
    trace := if s.busOk then s.trace ++ es else s.trace
    settles := s.settles + es.length
    bus := s.bus.after es
    rsp := { s.rsp with valid := if es.isEmpty then s.rsp.valid else false } }

/-- `BusCmd` and `BusData` for a list of events: stuck if the transport does not answer (44_sequencer.md R120). -/
def busWrites (es : List BusEvent) (s : State) : Result :=
  if s.busDone then .next (s.deliverAll es) else .fault .transportStalled

/-- The whole of an operation that emits events and returns 0 (SETPOS, DATA, WAKE, SLEEP, the refreshes). -/
def emitAndFinish (es : List BusEvent) (s : State) : Result :=
  andThen (busWrites es s) fun t => .next (t.done false)

/-- The arbiter's guard: a request operation runs only when no operation is in progress (20_memory.md R40); one issued
while busy is outside the admitted set (60_exceptions.md R143). -/
def whenIdle (s : State) (f : State → Result) : Result :=
  if s.busy then .refused .requestWhileBusy else f s

/-! ## The refresh streams (43_refresh.md R100 to R102) -/

/-- `BusData(GRAM[page][col])` for `col` in `first .. first + n - 1`, ascending (43_refresh.md R102). -/
def streamEvents (m : Memory) (page first n : Nat) : List BusEvent :=
  (List.range' first n).map fun col => dataEvent (m.read (cellAddr page col))

/-- One page of a full refresh: SETPOS 0, page, then its 128 cells (43_refresh.md R100). -/
def pageEvents (m : Memory) (page : Nat) : List BusEvent :=
  triplet 0x00#8 (BitVec.ofNat 8 page) ++ streamEvents m page 0 Config.W

/-- The events of REFRESH: pages ascending (43_refresh.md R100). -/
def refreshEvents (m : Memory) : List BusEvent :=
  (List.range Config.P).flatMap fun page => pageEvents m page

/-- The events of a valid REFRANGE with `startCol ≤ endCol`: the position, then the inclusive span (43_refresh.md
R101). -/
def rangeEvents (m : Memory) (page startCol endCol : Byte) : List BusEvent :=
  triplet startCol page ++ streamEvents m page.toNat startCol.toNat (endCol.toNat + 1 - startCol.toNat)

end Sys2Proof.Machine
end

