-- ==== Sys2Proof/Machine/Addressing.lean ====
section
/-! DEFINITION. SETPOS and DATA, the bus vocabulary of the direct surface (41_addressing_and_data.md R80, R81). -/

namespace Sys2Proof.Machine

/-- SETPOS (41_addressing_and_data.md R80): the triplet by its formulas, nothing validated, nothing remembered. -/
def execSetpos (x page : Byte) (s : State) : Host.Outcome State Fault Refusal :=
  whenIdle s (emitAndFinish (triplet x page))

/-- DATA (41_addressing_and_data.md R81): one data byte; GRAM is not written. -/
def execData (b : Byte) (s : State) : Host.Outcome State Fault Refusal :=
  whenIdle s (emitAndFinish [dataEvent b])

end Sys2Proof.Machine
end

