-- ==== Sys2Proof/Machine/BusRows.lean ====
section
/-! DEFINITION. The bus rows of spec/opcode_table.json (direction "emitted"): what the DCB does when its sequencer
stands at such a row is to make the row's one or two bus writes (30_encoding.md R56 to R60, 44_sequencer.md R117).
Where the sequencer goes next is the step's part (Machine/Sequencer.lean), as moving a program counter is elsewhere
(10_state.md R17; log entry 15). -/

namespace Sys2Proof.Machine

/-- BUS.PAGESEL (30_encoding.md R57): `0xB0 + page`. -/
def execBusPagesel (page : BitVec 3) (s : State) : Host.Outcome State Fault Refusal :=
  busWrites [cmdEvent (0b10110#5 ++ page)] s

/-- BUS.COLHI (30_encoding.md R57): `0x10 | x[7:4]`. -/
def execBusColhi (h : BitVec 4) (s : State) : Host.Outcome State Fault Refusal :=
  busWrites [cmdEvent (0b0001#4 ++ h)] s

/-- BUS.COLLO (30_encoding.md R57): `x[3:0]`. -/
def execBusCollo (l : BitVec 4) (s : State) : Host.Outcome State Fault Refusal :=
  busWrites [cmdEvent (0b0000#4 ++ l)] s

/-- BUS.DATA (30_encoding.md R56): a data byte. -/
def execBusData (b : Byte) (s : State) : Host.Outcome State Fault Refusal :=
  busWrites [dataEvent b] s

/-- BUS.DISPOFF (30_encoding.md R58, R59): "display off". -/
def execBusDispoff (s : State) : Host.Outcome State Fault Refusal :=
  busWrites [cmdEvent 0xAE#8] s

/-- BUS.INIT_COLLO0 (30_encoding.md R58, R59): "addressing mode", first byte. -/
def execBusInitCollo0 (s : State) : Host.Outcome State Fault Refusal :=
  busWrites [cmdEvent 0x00#8] s

/-- BUS.INIT_COLHI0 (30_encoding.md R58, R59): "addressing mode", second byte. -/
def execBusInitColhi0 (s : State) : Host.Outcome State Fault Refusal :=
  busWrites [cmdEvent 0x10#8] s

/-- BUS.STARTLINE0 (30_encoding.md R58, R59): "addressing mode", third byte. -/
def execBusStartline0 (s : State) : Host.Outcome State Fault Refusal :=
  busWrites [cmdEvent 0x40#8] s

/-- BUS.INIT_PAGE0 (30_encoding.md R58, R59): "addressing mode", fourth byte. -/
def execBusInitPage0 (s : State) : Host.Outcome State Fault Refusal :=
  busWrites [cmdEvent 0xB0#8] s

/-- BUS.CONTRAST (30_encoding.md R58, R59): "contrast=0xFF", two events. -/
def execBusContrast (s : State) : Host.Outcome State Fault Refusal :=
  busWrites [cmdEvent 0x81#8, cmdEvent 0xFF#8] s

/-- BUS.SEGREMAP (30_encoding.md R58, R59): "segment remap". -/
def execBusSegremap (s : State) : Host.Outcome State Fault Refusal :=
  busWrites [cmdEvent 0xA1#8] s

/-- BUS.A6 (30_encoding.md R58, R59): the byte the source leaves unnamed. -/
def execBusA6 (s : State) : Host.Outcome State Fault Refusal :=
  busWrites [cmdEvent 0xA6#8] s

/-- BUS.MUXRATIO (30_encoding.md R58, R59): "multiplex ratio 0x3F", two events. -/
def execBusMuxratio (s : State) : Host.Outcome State Fault Refusal :=
  busWrites [cmdEvent 0xA8#8, cmdEvent 0x3F#8] s

/-- BUS.COMSCAN (30_encoding.md R58, R59): "COM scan direction". -/
def execBusComscan (s : State) : Host.Outcome State Fault Refusal :=
  busWrites [cmdEvent 0xC8#8] s

/-- BUS.DISPOFFSET (30_encoding.md R58, R59): "display offset", two events. -/
def execBusDispoffset (s : State) : Host.Outcome State Fault Refusal :=
  busWrites [cmdEvent 0xD3#8, cmdEvent 0x00#8] s

/-- BUS.OSCDIV (30_encoding.md R58, R59): "oscillator divide 0x80", two events. -/
def execBusOscdiv (s : State) : Host.Outcome State Fault Refusal :=
  busWrites [cmdEvent 0xD5#8, cmdEvent 0x80#8] s

/-- BUS.D8 (30_encoding.md R58, R59): "charge pump", two events. -/
def execBusD8 (s : State) : Host.Outcome State Fault Refusal :=
  busWrites [cmdEvent 0xD8#8, cmdEvent 0x05#8] s

/-- BUS.PRECHARGE (30_encoding.md R58, R59): "pre-charge", two events. -/
def execBusPrecharge (s : State) : Host.Outcome State Fault Refusal :=
  busWrites [cmdEvent 0xD9#8, cmdEvent 0xF1#8] s

/-- BUS.COMPINS (30_encoding.md R58, R59): "COM pin config", two events. -/
def execBusCompins (s : State) : Host.Outcome State Fault Refusal :=
  busWrites [cmdEvent 0xDA#8, cmdEvent 0x12#8] s

/-- BUS.VCOMH (30_encoding.md R58, R59): "VCOMH level", two events. -/
def execBusVcomh (s : State) : Host.Outcome State Fault Refusal :=
  busWrites [cmdEvent 0xDB#8, cmdEvent 0x30#8] s

/-- BUS.CPENABLE (30_encoding.md R58 to R60): "charge-pump enable", two events. -/
def execBusCpenable (s : State) : Host.Outcome State Fault Refusal :=
  busWrites [cmdEvent 0x8D#8, cmdEvent 0x14#8] s

/-- BUS.DISPON (30_encoding.md R58 to R60): "display on". -/
def execBusDispon (s : State) : Host.Outcome State Fault Refusal :=
  busWrites [cmdEvent 0xAF#8] s

/-- BUS.CPDISABLE (30_encoding.md R60): "charge-pump-disable", two events, the second the parameter `CP_DISABLE_ARG`. -/
def execBusCpdisable (s : State) : Host.Outcome State Fault Refusal :=
  busWrites [cmdEvent 0x8D#8, cmdEvent s.params.cpDisableArg] s

end Sys2Proof.Machine
end

