-- ==== Sys2Proof/Machine/FrameBuffer.lean ====
section
/-! DEFINITION. PIXSET, CLEAR, PIXGET: the write, clear and read port of GRAM (40_framebuffer_ops.md R70 to R72).
None of them emits a bus byte. -/

namespace Sys2Proof.Machine

/-- PIXSET (40_framebuffer_ops.md R70): out of range it is dropped, colour 3 changes nothing. -/
def execPixset (x y : Byte) (color : Color) (s : State) : Host.Outcome State Fault Refusal :=
  whenIdle s fun s =>
    if pixelInRange x y ∧ color ≠ .reserved3 then
      let v := applyColor color (s.cell (pageOf y) x.toNat) (maskOf y)
      .next ((s.setCell (pageOf y) x.toNat v).done false)
    else .next (s.done false)

/-- CLEAR (40_framebuffer_ops.md R71): every cell reads 0x00, so none is listed; nothing is sent. -/
def execClear (s : State) : Host.Outcome State Fault Refusal :=
  whenIdle s fun s => .next (({ s with gram := [] } : State).done false)

/-- PIXGET (40_framebuffer_ops.md R72): the bit of 10_state.md R11; outside the display no cell is read and the model
refuses the run by name (60_exceptions.md R143; log entry 9). -/
def execPixget (x y : Byte) (s : State) : Host.Outcome State Fault Refusal :=
  whenIdle s fun s =>
    if pixelInRange x y then .next (s.done (s.pixel x.toNat y.toNat))
    else .refused .pixgetOutside

end Sys2Proof.Machine
end

