-- ==== Sys2Proof/Machine/InitPower.lean ====
section
/-! DEFINITION. INIT, WAKE, SLEEP (42_init_and_power.md R90 to R92). None reads or writes GRAM. -/

namespace Sys2Proof.Machine

/-- INIT (42_init_and_power.md R90): with an invalid transport READY becomes 0 and nothing is sent; otherwise the 27
bytes are sent and READY becomes 1. The result is READY. -/
def execInit (s : State) : Host.Outcome State Fault Refusal :=
  whenIdle s fun s =>
    if s.busOk then andThen (busWrites (initSeq.map cmdEvent) s) fun t => .next ((t.setReady true).done true)
    else .next ((s.setReady false).done false)

/-- WAKE (42_init_and_power.md R91). -/
def execWake (s : State) : Host.Outcome State Fault Refusal :=
  whenIdle s (emitAndFinish (wakeSeq.map cmdEvent))

/-- SLEEP (42_init_and_power.md R92), with the parameter `CP_DISABLE_ARG`. -/
def execSleep (s : State) : Host.Outcome State Fault Refusal :=
  whenIdle s (emitAndFinish ((sleepSeq s.params).map cmdEvent))

end Sys2Proof.Machine
end

