-- ==== Sys2Proof/Machine/Refresh.lean ====
section
/-! DEFINITION. REFRESH and REFRANGE, the reads of GRAM onto the bus (43_refresh.md R100, R101). -/

namespace Sys2Proof.Machine

/-- REFRESH (43_refresh.md R100): 1048 events; READY is not tested and GRAM is unchanged. -/
def execRefresh (s : State) : Host.Outcome State Fault Refusal :=
  whenIdle s fun s => emitAndFinish (refreshEvents s.gram) s

/-- REFRANGE (43_refresh.md R101): all-or-nothing validation, an inclusive span, and the OPEN policy for a reversed
one. -/
def execRefrange (page startCol endCol : Byte) (s : State) : Host.Outcome State Fault Refusal :=
  whenIdle s fun s =>
    if rangeValid page startCol endCol then
      if startCol.toNat ≤ endCol.toNat then emitAndFinish (rangeEvents s.gram page startCol endCol) s
      else
        match s.params.rangeReversed with
        | .setposOnly => emitAndFinish (triplet startCol page) s
        | .noop => .next (s.done false)
        | .refuse => .refused .reversedRange
    else .next (s.done false)

end Sys2Proof.Machine
end

