-- ==== Sys2Proof/Machine/Dispatch.lean ====
section
/-! DEFINITION. exec: one arm per constructor of Instr, each one direct call of its meaning. -/

namespace Sys2Proof.Machine

def exec (i : Instr) (s : State) : Host.Outcome State Fault Refusal :=
  match i with
  | .init => Sys2Proof.Machine.execInit s
  | .setpos x page => Sys2Proof.Machine.execSetpos x page s
  | .data b => Sys2Proof.Machine.execData b s
  | .wake => Sys2Proof.Machine.execWake s
  | .sleep => Sys2Proof.Machine.execSleep s
  | .refresh => Sys2Proof.Machine.execRefresh s
  | .refrange page startCol endCol => Sys2Proof.Machine.execRefrange page startCol endCol s
  | .pixset x y color => Sys2Proof.Machine.execPixset x y color s
  | .clear => Sys2Proof.Machine.execClear s
  | .pixget x y => Sys2Proof.Machine.execPixget x y s
  | .busPagesel page => Sys2Proof.Machine.execBusPagesel page s
  | .busColhi h => Sys2Proof.Machine.execBusColhi h s
  | .busCollo l => Sys2Proof.Machine.execBusCollo l s
  | .busData b => Sys2Proof.Machine.execBusData b s
  | .busDispoff => Sys2Proof.Machine.execBusDispoff s
  | .busInitCollo0 => Sys2Proof.Machine.execBusInitCollo0 s
  | .busInitColhi0 => Sys2Proof.Machine.execBusInitColhi0 s
  | .busStartline0 => Sys2Proof.Machine.execBusStartline0 s
  | .busInitPage0 => Sys2Proof.Machine.execBusInitPage0 s
  | .busContrast => Sys2Proof.Machine.execBusContrast s
  | .busSegremap => Sys2Proof.Machine.execBusSegremap s
  | .busA6 => Sys2Proof.Machine.execBusA6 s
  | .busMuxratio => Sys2Proof.Machine.execBusMuxratio s
  | .busComscan => Sys2Proof.Machine.execBusComscan s
  | .busDispoffset => Sys2Proof.Machine.execBusDispoffset s
  | .busOscdiv => Sys2Proof.Machine.execBusOscdiv s
  | .busD8 => Sys2Proof.Machine.execBusD8 s
  | .busPrecharge => Sys2Proof.Machine.execBusPrecharge s
  | .busCompins => Sys2Proof.Machine.execBusCompins s
  | .busVcomh => Sys2Proof.Machine.execBusVcomh s
  | .busCpenable => Sys2Proof.Machine.execBusCpenable s
  | .busDispon => Sys2Proof.Machine.execBusDispon s
  | .busCpdisable => Sys2Proof.Machine.execBusCpdisable s

end Sys2Proof.Machine
end

