-- ==== Sys2Proof/Machine/Sequencer.lean ====
section
/-! DEFINITION. The sequencer between two bus writes (44_sequencer.md R110 to R117) and reset (44_sequencer.md R122,
70_reset_and_hazards.md R150, R151). -/

namespace Sys2Proof.Machine

/-- The bus event that the position `SEQ` emits next (44_sequencer.md R113 to R116). -/
def seqEvent (s : State) : Except Fault BusEvent :=
  match s.seq.st with
  | .idle => .error .illegalSequencer
  | .list =>
    match (seqRom s.params s.seq.list)[s.seq.i.toNat]? with
    | some b => .ok (cmdEvent b)
    | none => .error .illegalSequencer
  | .pos =>
    match s.seq.i.toNat with
    | 0 => .ok (cmdEvent (pageSel s.seq.pg))
    | 1 => .ok (cmdEvent (colHi s.seq.x))
    | 2 => .ok (cmdEvent (colLo s.seq.x))
    | _ => .error .illegalSequencer
  | .data => .ok (dataEvent (aField s.req))
  | .stream =>
    match s.cellChecked s.seq.pg.toNat s.seq.col.toNat with
    | .ok v => .ok (dataEvent v)
    | .error e => .error e

/-- The update of `SEQ` after the bus write at its position, `finish` included (44_sequencer.md R113 to R116). -/
def advance (s : State) : State :=
  match s.seq.st with
  | .idle => s
  | .list =>
    if s.seq.i.toNat + 1 = (seqRom s.params s.seq.list).length then
      match s.seq.list with
      | .init => (s.setReady true).done true
      | .wake => s.done false
      | .sleep => s.done false
    else { s with seq := { s.seq with i := s.seq.i + 1#5 } }
  | .pos =>
    if s.seq.i = 0#5 then { s with seq := { s.seq with i := 1#5 } }
    else if s.seq.i = 1#5 then { s with seq := { s.seq with i := 2#5 } }
    else if s.seq.strm then { s with seq := { s.seq with st := .stream } }
    else s.done false
  | .data => s.done false
  | .stream =>
    if s.seq.col ≠ s.seq.last then { s with seq := { s.seq with col := s.seq.col + 1#8 } }
    else if s.seq.full ∧ s.seq.pg ≠ 7#8 then
      { s with seq := { s.seq with pg := s.seq.pg + 1#8, x := 0#8, col := 0#8, i := 0#5, st := .pos } }
    else s.done false

/-- One step of a busy sequencer at the bus-write grain: the write at its position, then the update of `SEQ`; while
`bus_done` is 0 the event stands on the bus port and nothing advances (44_sequencer.md R117, R120). -/
def busStep (s : State) : Result :=
  match seqEvent s with
  | .error e => .fault e
  | .ok e => if s.busDone then .next (advance (s.deliver e)) else .next (s.present e)

/-- What the display still receives of the bus write that `rst` cuts short: the event at the sequencer's position or
nothing, by a free value, for 44_sequencer.md R122 admits both (log entry 10); nothing while `bus_ok` is 0. -/
def cutShort (s : State) : List BusEvent :=
  match seqEvent s with
  | .ok e => if s.busOk && Config.cutShortDelivered s.draws then [e] else []
  | .error _ => []

/-- `rst` (44_sequencer.md R122, 70_reset_and_hazards.md R150, R151): the registers take the values of 10_state.md R21
and nothing is sent. TRACE starts empty again, but where an operation is abandoned: there the events already delivered
stay (log entry 10). The environment's inputs, the parameters and the model's own fields are no part of the block and
stay. -/
def applyReset (s : State) : State :=
  { State.reset with
    trace := if s.busy then s.trace ++ cutShort s else []
    draws := if s.busy then s.draws + 1 else s.draws
    requests := s.requests
    busOk := s.busOk
    busDone := s.busDone
    params := s.params
    grain := s.grain
    settles := s.settles }

/-! ## The accept step's `SEQ` updates (44_sequencer.md R111) -/

/-- Start walking a fixed list: `SEQ.list <- l; SEQ.i <- 0`, next state S_LIST. -/
def startList (l : SeqList) (s : State) : State :=
  { s with seq := { s.seq with st := .list, list := l, i := 0#5 } }

/-- Start a triplet that ends the operation: `SEQ.strm <- 0`, next state S_POS. -/
def startPos (x page : Byte) (s : State) : State :=
  { s with seq := { s.seq with st := .pos, pg := page, x := x, i := 0#5, strm := false } }

/-- Start a triplet that data follow: `SEQ.strm <- 1`, next state S_POS. -/
def startStream (page first last : Byte) (full : Bool) (s : State) : State :=
  { s with
    seq := { s.seq with
      st := .pos, pg := page, x := first, i := 0#5, strm := true, full := full, col := first, last := last } }

/-- The number of bus writes of an operation accepted in `s` (44_sequencer.md R119; a reserved word makes none). -/
def opBusWrites (i : Instr) (s : State) : Nat :=
  match i with
  | .init => if s.busOk then 27 else 0
  | .setpos _ _ | .wake | .sleep => 3
  | .data _ => 1
  | .refresh => 1048
  | .refrange page startCol endCol =>
    if rangeValid page startCol endCol then
      if startCol.toNat ≤ endCol.toNat then 3 + (endCol.toNat - startCol.toNat + 1)
      else
        match s.params.rangeReversed with
        | .setposOnly => 3
        | .noop | .refuse => 0
    else 0
  | .pixset _ _ _ | .clear | .pixget _ _ => 0
  | .busPagesel _ | .busColhi _ | .busCollo _ | .busData _ | .busDispoff | .busInitCollo0 | .busInitColhi0
  | .busStartline0 | .busInitPage0 | .busSegremap | .busA6 | .busComscan | .busDispon => 1
  | .busContrast | .busMuxratio | .busDispoffset | .busOscdiv | .busD8 | .busPrecharge | .busCompins | .busVcomh
  | .busCpenable | .busCpdisable => 2

end Sys2Proof.Machine
end

