-- ==== Sys2Proof/Machine/Fetch.lean ====
section
/-! DEFINITION. What a step finds to run: the request on the request port (44_sequencer.md R110, R111;
30_encoding.md R53), or the bus row at the sequencer's position. Step.lean calls these. -/

namespace Sys2Proof.Machine

/-- The accept step of 44_sequencer.md R111 for a decoded request. An operation that makes no bus write completes
inside it, by its own meaning. -/
def acceptOp (i : Instr) (s : State) : Result :=
  match i with
  | .init => if s.busOk then .next (startList .init s) else exec i s
  | .wake => .next (startList .wake s)
  | .sleep => .next (startList .sleep s)
  | .setpos x page => .next (startPos x page s)
  | .data _ => .next { s with seq := { s.seq with st := .data } }
  | .refresh => .next (startStream 0#8 0#8 127#8 true s)
  | .refrange page startCol endCol =>
    if rangeValid page startCol endCol then
      if startCol.toNat ≤ endCol.toNat then .next (startStream page startCol endCol false s)
      else
        match s.params.rangeReversed with
        | .setposOnly => .next (startPos startCol page s)
        | .noop | .refuse => exec i s
    else exec i s
  | .pixset _ _ _ | .clear | .pixget _ _ => exec i s
  | .busPagesel _ | .busColhi _ | .busCollo _ | .busData _ | .busDispoff | .busInitCollo0 | .busInitColhi0
  | .busStartline0 | .busInitPage0 | .busContrast | .busSegremap | .busA6 | .busMuxratio | .busComscan
  | .busDispoffset | .busOscdiv | .busD8 | .busPrecharge | .busCompins | .busVcomh | .busCpenable | .busDispon
  | .busCpdisable => exec i s

/-- A request word is accepted: it is latched and leaves the port (44_sequencer.md R111). -/
def State.latch (w : Word) (rest : List Word) (s : State) : State :=
  ({ s with requests := rest, req := w } : State).quiet

/-- One step of an idle DCB with the word `w` presented: a reserved word completes at once as a no-op with result 0
(30_encoding.md R53); an operation runs whole, or is accepted, by the grain (log entry 2). -/
def acceptRequest (w : Word) (rest : List Word) (s : State) : Result :=
  match decodeRequest w with
  | .error _ => .next ((s.latch w rest).done false)
  | .ok i =>
    match s.grain with
    | .operation => exec i (s.latch w rest)
    | .busWrite => acceptOp i (s.latch w rest)

/-- The bus row at the position of a busy sequencer, and its number of bus writes: in a list, the two-event row that
starts there, or else the row of the next byte; elsewhere the row of the next event. `SLEEP_SEQ[0..1]` is
BUS.CPDISABLE whatever the parameter. None where the next byte is no row of the table (a page of 8 or more in SETPOS,
the argument of a two-event row). -/
def fetchRow (s : State) : Option (Instr × Nat) :=
  let one : Option (Instr × Nat) :=
    match seqEvent s with
    | .ok e =>
      match decodeBus e.word with
      | .ok i => some (i, 1)
      | .error _ => none
    | .error _ => none
  match s.seq.st with
  | .list =>
    if s.seq.list = .sleep ∧ s.seq.i = 0#5 then some (.busCpdisable, 2)
    else
      match (seqRom s.params s.seq.list)[s.seq.i.toNat]?, (seqRom s.params s.seq.list)[s.seq.i.toNat + 1]? with
      | some a, some b =>
        match decodeBusPair ((cmdEvent a).word ++ (cmdEvent b).word) with
        | .ok i => some (i, 2)
        | .error _ => one
      | _, _ => one
  | .idle | .pos | .stream | .data => one

/-- The update of `SEQ` after `n` bus writes. -/
def advanceBy : Nat → State → State
  | 0, s => s
  | n + 1, s => advanceBy n (advance s)

/-- One step of a busy sequencer at the operation grain: the whole bus row at its position; where there is none, the
one bus write of its formula. -/
def rowStep (s : State) : Result :=
  match fetchRow s with
  | some (i, n) => andThen (exec i s) fun t => .next (advanceBy n t)
  | none =>
    match seqEvent s with
    | .error e => .fault e
    | .ok e => andThen (busWrites [e] s) fun t => .next (advance t)

/-- The step of a busy sequencer, by the grain. -/
def busyStep (s : State) : Result :=
  match s.grain with
  | .operation => rowStep s
  | .busWrite => busStep s

/-! ## Where an instruction stands for the next step to fetch it -/

/-- The sequencer at position `i` of a list. -/
def State.atList (l : SeqList) (i : BitVec 5) (s : State) : State :=
  { s with seq := { s.seq with st := .list, list := l, i := i } }

/-- The sequencer at byte `i` of the triplet for `(x, page)` with nothing to stream. -/
def State.atTriplet (i : BitVec 5) (x page : Byte) (s : State) : State :=
  { s with seq := { s.seq with st := .pos, i := i, x := x, pg := page, strm := false } }

/-- The sequencer at a position that emits the bus row `i`; a request operation leaves the state alone. -/
def State.atRow (i : Instr) (s : State) : State :=
  match i with
  | .busPagesel page => s.atTriplet 0#5 s.seq.x (page.setWidth 8)
  | .busColhi h => s.atTriplet 1#5 (h ++ 0#4) s.seq.pg
  | .busCollo l => s.atTriplet 2#5 (0#4 ++ l) s.seq.pg
  | .busData b => { s with seq := { s.seq with st := .data }, req := mkRequest 0x2#4 0 0 b }
  | .busDispoff => s.atList .init 0#5
  | .busInitCollo0 => s.atList .init 1#5
  | .busInitColhi0 => s.atList .init 2#5
  | .busStartline0 => s.atList .init 3#5
  | .busInitPage0 => s.atList .init 4#5
  | .busContrast => s.atList .init 5#5
  | .busSegremap => s.atList .init 7#5
  | .busA6 => s.atList .init 8#5
  | .busMuxratio => s.atList .init 9#5
  | .busComscan => s.atList .init 11#5
  | .busDispoffset => s.atList .init 12#5
  | .busOscdiv => s.atList .init 14#5
  | .busD8 => s.atList .init 16#5
  | .busPrecharge => s.atList .init 18#5
  | .busCompins => s.atList .init 20#5
  | .busVcomh => s.atList .init 22#5
  | .busCpenable => s.atList .init 24#5
  | .busDispon => s.atList .init 26#5
  | .busCpdisable => s.atList .sleep 0#5
  | .init | .setpos _ _ | .data _ | .wake | .sleep | .refresh | .refrange _ _ _ | .pixset _ _ _ | .clear
  | .pixget _ _ => s

/-- Put a request word on the request port of an idle DCB. -/
def State.atRequest (w : Word) (s : State) : State :=
  { s with seq := { s.seq with st := .idle }, requests := w :: s.requests }

/-- Put the word on the port where the next step finds it: a bus row at its sequencer position, a request word at
the head of the request port, a command byte that is no row as the page byte of a triplet (log entries 1, 14, 15). -/
def State.placeWord (nbits w : Nat) (s : State) : State :=
  if nbits ≤ 16 then
    match decodeBus (BitVec.ofNat 16 w) with
    | .ok i => s.atRow i
    | .error _ => s.atTriplet 0#5 s.seq.x (BitVec.ofNat 8 w - 0xB0#8)
  else
    match decodeBusPair (BitVec.ofNat 32 w) with
    | .ok i => s.atRow i
    | .error _ => s.atRequest (BitVec.ofNat 32 w)

end Sys2Proof.Machine
end

