-- ==== Sys2Proof/Machine/Step.lean ====
section
/-! DEFINITION. One step of the DCB, and where an instruction is put for the next step to fetch it. -/

namespace Sys2Proof.Machine

/-- One step: reset overrides everything (60_exceptions.md R137); a busy sequencer goes on with its operation
(44_sequencer.md R112); an idle one accepts the request presented (R111), or, with none, does nothing but end the
response pulse (R110). -/
def step (s : State) : Host.Outcome State Fault Refusal :=
  if s.rst then .next (applyReset s)
  else if s.busy then busyStep s
  else
    match s.requests with
    | [] => .next s.quiet
    | w :: rest => acceptRequest w rest s

/-- The state with the instruction of the table word `w` where the next step fetches it: no reset, operation grain,
and the word on the request port or at the sequencer's position. -/
def State.withFetchWord (s : State) (nbits w : Nat) : State :=
  State.placeWord nbits w { s with rst := false, grain := .operation }

end Sys2Proof.Machine
end

