-- ==== Sys2Proof/Machine/Asm.lean ====
section
/-! DEFINITION. The assembler syntax of 30_encoding.md R62 and the pseudo-operations of R63, on lists of characters.
The spec's own notation (92_eei_decisions.md D21); no meaning and no step reads it. -/

namespace Sys2Proof.Machine

/-- The fixed expansion of a pseudo-operation (30_encoding.md R63). DESIGN CHOICE (log entry 21): DIRECT with no data byte
is SETPOS alone. -/
def expandPseudo : Pseudo → List Instr
  | .toggle x y => [.pixset x y .inverse]
  | .sync => [.refresh]
  | .clrdisp => [.clear, .refresh]
  | .shutdown => [.clear, .refresh, .sleep]
  | .direct x page bytes => .setpos x page :: bytes.map Instr.data

/-- What stands before the comment sign `;`. -/
def beforeComment : List Char → List Char
  | [] => []
  | c :: cs => if c = ';' then [] else c :: beforeComment cs

def isBlankChar (c : Char) : Bool := c = ' ' || c = '\t'

def dropBlanks : List Char → List Char
  | [] => []
  | c :: cs => if isBlankChar c then dropBlanks cs else c :: cs

def trimBlanks (cs : List Char) : List Char := (dropBlanks (dropBlanks cs).reverse).reverse

/-- The first word, and what stands after it. -/
def firstWord : List Char → List Char × List Char
  | [] => ([], [])
  | c :: cs => if isBlankChar c then ([], cs) else ((c :: (firstWord cs).1), (firstWord cs).2)

/-- The pieces between commas. -/
def splitCommas : List Char → List (List Char)
  | [] => [[]]
  | c :: cs =>
    match splitCommas cs with
    | [] => [[c]]
    | p :: ps => if c = ',' then [] :: p :: ps else (c :: p) :: ps

/-- The value of a digit below `base`. -/
def digitValue (base : Nat) (c : Char) : Option Nat :=
  let n := c.toNat
  let v :=
    if 48 ≤ n ∧ n ≤ 57 then n - 48
    else if 65 ≤ n ∧ n ≤ 70 then n - 55
    else if 97 ≤ n ∧ n ≤ 102 then n - 87
    else base
  if v < base then some v else none

/-- Digits to a number, the most significant first. -/
def digitsValue (base : Nat) : Nat → List Char → Option Nat
  | acc, [] => some acc
  | acc, c :: cs =>
    match digitValue base c with
    | some d => digitsValue base (acc * base + d) cs
    | none => none

/-- A number, decimal or `0x` hex. -/
def parseNumber : List Char → Option Nat
  | [] => none
  | '0' :: 'x' :: c :: cs => digitsValue 16 0 (c :: cs)
  | c :: cs => digitsValue 10 0 (c :: cs)

/-- An operand: a number of 8 bits (30_encoding.md R55). -/
def parseByte (cs : List Char) : Option Byte :=
  match parseNumber cs with
  | some n => if n < 256 then some (BitVec.ofNat 8 n) else none
  | none => none

/-- The colour operand: its name or its number (30_encoding.md R54, R62). -/
def parseColor (cs : List Char) : Option Color :=
  if cs = ['B', 'L', 'A', 'C', 'K'] then some .black
  else if cs = ['W', 'H', 'I', 'T', 'E'] then some .white
  else if cs = ['I', 'N', 'V', 'E', 'R', 'S', 'E'] then some .inverse
  else
    match parseNumber cs with
    | some n => if n < 4 then some (Color.ofBits (BitVec.ofNat 2 n)) else none
    | none => none

/-- All operands, or none if one will not do. -/
def parseBytes : List (List Char) → Option (List Byte)
  | [] => some []
  | p :: ps =>
    match parseByte p, parseBytes ps with
    | some b, some bs => some (b :: bs)
    | _, _ => none

/-- One operation or pseudo-operation from its mnemonic and operands, in source-argument order. DESIGN CHOICE (log entry
21): `DIRECT x, page` with no data byte is accepted; 30_encoding.md R63 does not say whether the list may be empty. -/
def parseOperation (mnemonic : List Char) (operands : List (List Char)) : Option (List Instr) :=
  if mnemonic = ['P', 'I', 'X', 'S', 'E', 'T'] then
    match operands with
    | [x, y, c] =>
      match parseByte x, parseByte y, parseColor c with
      | some x, some y, some c => some [.pixset x y c]
      | _, _, _ => none
    | _ => none
  else
    match parseBytes operands with
    | none => none
    | some bs =>
      match mnemonic, bs with
      | ['I', 'N', 'I', 'T'], [] => some [.init]
      | ['S', 'E', 'T', 'P', 'O', 'S'], [x, page] => some [.setpos x page]
      | ['D', 'A', 'T', 'A'], [b] => some [.data b]
      | ['W', 'A', 'K', 'E'], [] => some [.wake]
      | ['S', 'L', 'E', 'E', 'P'], [] => some [.sleep]
      | ['R', 'E', 'F', 'R', 'E', 'S', 'H'], [] => some [.refresh]
      | ['R', 'E', 'F', 'R', 'A', 'N', 'G', 'E'], [page, a, z] => some [.refrange page a z]
      | ['C', 'L', 'E', 'A', 'R'], [] => some [.clear]
      | ['P', 'I', 'X', 'G', 'E', 'T'], [x, y] => some [.pixget x y]
      | ['T', 'O', 'G', 'G', 'L', 'E'], [x, y] => some (expandPseudo (.toggle x y))
      | ['S', 'Y', 'N', 'C'], [] => some (expandPseudo .sync)
      | ['C', 'L', 'R', 'D', 'I', 'S', 'P'], [] => some (expandPseudo .clrdisp)
      | ['S', 'H', 'U', 'T', 'D', 'O', 'W', 'N'], [] => some (expandPseudo .shutdown)
      | ['D', 'I', 'R', 'E', 'C', 'T'], x :: page :: bytes => some (expandPseudo (.direct x page bytes))
      | _, _ => none

/-- One line: a comment starts at `;`, a blank line is no operation, operands are separated by commas
(30_encoding.md R62). -/
def assembleLine (line : List Char) : Option (List Instr) :=
  let text := trimBlanks (beforeComment line)
  if text = [] then some []
  else
    let rest := trimBlanks (firstWord text).2
    parseOperation (firstWord text).1 (if rest = [] then [] else (splitCommas rest).map trimBlanks)

/-- A program, line by line; none if a line will not do. -/
def assemble : List (List Char) → Option (List Instr)
  | [] => some []
  | l :: ls =>
    match assembleLine l, assemble ls with
    | some is, some js => some (is ++ js)
    | _, _ => none

/-- The request words of a program, in issue order; a bus row is no request and gives none. -/
def requestWords (is : List Instr) : List Word :=
  is.filterMap fun i =>
    match encode i with
    | .request w => some w
    | .bus _ => none
    | .busPair _ => none

end Sys2Proof.Machine
end

