-- ==== Sys2Proof/Machine/Display.lean ====
section
/-! DEFINITION. ASSUMED (PRESUMED, log entry 16): the reference display sink of 20_memory.md R48, which the spec has
from general knowledge and offers so that the mirror relation of R47 can be stated. The display's own state is
environment and unknown after reset (10_state.md R20 c, 92_eei_decisions.md D28), so it is no field of State: it is a
function of TRACE and of whatever the display held before. No meaning and no step reads it. -/

namespace Sys2Proof.Machine

/-- `DRAM`, page pointer `dp`, column pointer `dc` (20_memory.md R48), and whether the next command byte is an
argument. -/
structure Display where
  /-- the display's RAM, by `page * 128 + column`, in the form of GRAM -/
  dram : Memory
  dp : BitVec 3
  dc : Byte
  /-- the last command byte was a two-byte command -/
  argPending : Bool
deriving DecidableEq, Repr

/-- The two-byte display commands of 20_memory.md R48. -/
def twoByteCommands : List Byte := [0x81#8, 0xA8#8, 0xD3#8, 0xD5#8, 0xD8#8, 0xD9#8, 0xDA#8, 0xDB#8, 0x8D#8]

/-- A command byte that is no argument: a pointer move, or nothing the sink tracks. DESIGN CHOICE (log entry 16): a
triplet of SETPOS with `page ≥ 8` or `x ≥ 128`, to which the display's reaction is any value (41_addressing_and_data.md
R80, 93_implementation_defined.md U3), gets no case of its own: R48's decoding is applied to its bytes as they stand, so
a page byte outside `0xB0..0xB7` is taken for whatever command it spells, and `dc` takes a column of 128 or more. -/
def Display.command (b : Byte) (d : Display) : Display :=
  if b.extractLsb' 3 5 = 0b10110#5 then { d with dp := b.extractLsb' 0 3 }
  else if b.extractLsb' 4 4 = 0b0001#4 then { d with dc := b.extractLsb' 0 4 ++ d.dc.extractLsb' 0 4 }
  else if b.extractLsb' 4 4 = 0b0000#4 then { d with dc := d.dc.extractLsb' 4 4 ++ b.extractLsb' 0 4 }
  else { d with argPending := twoByteCommands.contains b }

/-- A data byte: stored at the pointers, then the column steps, wrapping after 127 inside the page. -/
def Display.dataByte (b : Byte) (d : Display) : Display :=
  { d with
    dram := if d.dc.toNat < Config.W then d.dram.write (cellAddr d.dp.toNat d.dc.toNat) b else d.dram
    dc := if d.dc = 127#8 then 0#8 else d.dc + 1#8
    argPending := false }

/-- The sink's reaction to one bus event (20_memory.md R48). -/
def Display.event (d : Display) (e : BusEvent) : Display :=
  match e.tag with
  | .cmd => if d.argPending then { d with argPending := false } else d.command e.byte
  | .data => d.dataByte e.byte

/-- The sink after a list of events, oldest first. -/
def Display.run (d : Display) (es : List BusEvent) : Display := es.foldl Display.event d

/-- `DRAM[page][column]`. -/
def Display.cell (d : Display) (page column : Nat) : Byte := d.dram.read (cellAddr page column)

end Sys2Proof.Machine
end

