-- ==== Sys2Proof/Safety.lean ====
section
/-! DEFINITION. What a legal state is (10_state.md R10, R12, R15, R22; 44_sequencer.md R110, R116), how runs are said,
and when a run has ended (44_sequencer.md R121). -/

namespace Sys2Proof.Machine

/-- The legal positions of the sequencer: `SEQ.i` inside the list or the triplet (10_state.md R15), and, wherever data
follow, a page and a column span inside GRAM (44_sequencer.md R116: "`SEQ.col ≤ SEQ.end ≤ 127` and `SEQ.pg ≤ 7`"). -/
def State.seqLegal (s : State) : Bool :=
  let spanLegal : Bool :=
    decide (s.seq.pg.toNat < Config.P ∧ s.seq.col.toNat ≤ s.seq.last.toNat ∧ s.seq.last.toNat < Config.W)
  match s.seq.st with
  | .idle => true
  | .list => decide (s.seq.i.toNat < (seqRom s.params s.seq.list).length)
  | .pos => decide (s.seq.i.toNat < 3) && (!s.seq.strm || spanLegal)
  | .stream => s.seq.strm && spanLegal
  | .data => true

/-- A write that stands on the bus port is the one of the sequencer's position (44_sequencer.md R117). -/
def State.portLegal (s : State) : Bool :=
  match seqEvent s with
  | .ok e => !s.bus.valid || (s.bus.rs == e.tag.code && s.bus.byte == e.byte)
  | .error _ => !s.bus.valid

/-- The legal states: GRAM in canonical form; a legal sequencer; nothing on the bus port when idle (44_sequencer.md
R110) and only the position's event otherwise; `rsp_valid` only at the end of an operation (10_state.md R22). -/
def State.legal (s : State) : Bool :=
  s.gram.wf && s.seqLegal && s.portLegal && (s.busy || !s.bus.valid) && (!s.rsp.valid || !s.busy)

/-- The run has ended: the last request is done (44_sequencer.md R121). DESIGN CHOICE (log entry 23): idle with no word
left counts as ended also where `rst` abandoned the last request, which then has no `done` (R122), and where there was
no request at all; R121 says neither. -/
def State.runEnded (s : State) : Bool := s.reqReady && s.requests.isEmpty

/-- The result of a run: the final state `(GRAM, READY)` and the output `TRACE` (44_sequencer.md R121). -/
structure RunResult where
  gram : Memory
  ready : Bool
  trace : List BusEvent
deriving DecidableEq, Repr

/-- The result of a run, read from its last state. -/
def State.result (s : State) : RunResult := { gram := s.gram, ready := s.ready, trace := s.trace }

/-- `n` steps of the machine. -/
def stepsOf (n : Nat) (s : State) : Result := Host.Core.run Sys2Proof.core n s

/-- The DCB is idle with the word `w` presented and no reset: the next step accepts it (44_sequencer.md R111). -/
def State.presents (s : State) (w : Word) (rest : List Word) : Prop :=
  s.rst = false ∧ s.seq.st = .idle ∧ s.requests = w :: rest

/-- The reserved request words, in the words of 30_encoding.md R53. -/
def reservedWord (w : Word) : Prop :=
  zField w ≠ 0#4 ∨ opField w = 0x7#4 ∨ opField w = 0xB#4 ∨ opField w = 0xC#4 ∨ opField w = 0xD#4 ∨ opField w = 0xE#4 ∨
    opField w = 0xF#4 ∨ (opField w = 0x8#4 ∧ (cField w).extractLsb' 2 6 ≠ 0#6) ∨
    (opField w = 0x8#4 ∧ (cField w).extractLsb' 0 2 = 3#2)

end Sys2Proof.Machine
end

