-- ==== Sys2Proof/Certificates/Slice0/Obligations.lean ====
section
/-! DEFINITION. The statements for the provers: def Obligations.<Name> : Prop. Where a next state is written
`{ s with … }`, every field not named is unchanged, all of GRAM among them: the frame is part of the statement. -/

open Sys2Proof Sys2Proof.Machine

/-! ## Encodings -/

/-- The words of 95_test_vectors.md decode to the operations the tables of 30_encoding.md R50 to R54 give them. -/
def Obligations.RequestWordsDecodeToTheirOperations : Prop :=
  decodeRequest 0x00ABCDEF#32 = .ok .init ∧
  decodeRequest 0x1000035A#32 = .ok (.setpos 0x5A#8 0x03#8) ∧
  decodeRequest 0x20FFFFA5#32 = .ok (.data 0xA5#8) ∧
  decodeRequest 0x30000000#32 = .ok .wake ∧
  decodeRequest 0x40000000#32 = .ok .sleep ∧
  decodeRequest 0x50000000#32 = .ok .refresh ∧
  decodeRequest 0x600B0A02#32 = .ok (.refrange 0x02#8 0x0A#8 0x0B#8) ∧
  decodeRequest 0x80010D05#32 = .ok (.pixset 0x05#8 0x0D#8 .white) ∧
  decodeRequest 0x80030303#32 = .ok (.pixset 0x03#8 0x03#8 .reserved3) ∧
  decodeRequest 0x90000000#32 = .ok .clear ∧
  decodeRequest 0xA0000D05#32 = .ok (.pixget 0x05#8 0x0D#8) ∧
  decodeRequest 0x81010303#32 = .error (.reservedZ 0x1#4) ∧
  decodeRequest 0x80040303#32 = .error (.reservedColourBits 0x04#8) ∧
  decodeRequest 0x70000000#32 = .error (.reservedOpcode 0x7#4)

/-- Bus words written out from 30_encoding.md R56 to R58 and R60 decode to their rows. ASSUMED in the last clause: the
`0x10` of BUS.CPDISABLE is the spec's general knowledge (PRESUMED, log entry 5). -/
def Obligations.BusWordsDecodeToTheirRows : Prop :=
  decodeBus 0b0000000010110011#16 = .ok (.busPagesel 3#3) ∧
  decodeBus 0b0000000000010101#16 = .ok (.busColhi 5#4) ∧
  decodeBus 0b0000000000001010#16 = .ok (.busCollo 10#4) ∧
  decodeBus 0b0100000010100101#16 = .ok (.busData 0xA5#8) ∧
  decodeBus 0b0000000010101110#16 = .ok .busDispoff ∧
  decodeBus 0b0000000010101111#16 = .ok .busDispon ∧
  decodeBusPair 0b00000000100000010000000011111111#32 = .ok .busContrast ∧
  decodeBusPair 0b00000000100011010000000000010100#32 = .ok .busCpenable ∧
  decodeBusPair 0b00000000100011010000000000010000#32 = .ok .busCpdisable

/-- 30_encoding.md R50, R56: decoding the encoding of any well-formed instruction gives it back, every operand at
every value. -/
def Obligations.DecodeOfEncodeIsTheInstruction : Prop :=
  ∀ i : Instr, i.wellFormed = true → decode (encode i) = .ok i

/-- 30_encoding.md R56 to R60: a bus word (or pair) that decodes has one well-formed row, whose encoding is that word. -/
def Obligations.BusWordsReencode : Prop :=
  (∀ (w : BitVec 16) (i : Instr), decodeBus w = .ok i → i.wellFormed = true ∧ encode i = .bus w) ∧
  (∀ (w : Word) (i : Instr), decodeBusPair w = .ok i → i.wellFormed = true ∧ encode i = .busPair w)

/-- 30_encoding.md R50: the places of the five fields; `Z ≠ 0` is no operation; operands in source-argument order; and a
field an operation does not use may hold anything. -/
def Obligations.RequestFormatAndIgnoredFields : Prop :=
  (∀ w : Word, w.toNat = (opField w).toNat * 2 ^ 28 + (zField w).toNat * 2 ^ 24 + (cField w).toNat * 2 ^ 16 +
      (bField w).toNat * 2 ^ 8 + (aField w).toNat) ∧
  (∀ w : Word, zField w ≠ 0#4 → ∃ e, decodeRequest w = .error e) ∧
  (∀ c b a : Byte, decodeRequest (mkRequest 0x1#4 c b a) = .ok (.setpos a b) ∧
      decodeRequest (mkRequest 0x6#4 c b a) = .ok (.refrange a b c)) ∧
  (∀ (w w' : Word) (i : Instr), decodeRequest w = .ok i → w' &&& careMask i = w &&& careMask i →
      decodeRequest w' = .ok i)

/-- 30_encoding.md R52: a word selects the row with `(w & mask) = match`, the rows are disjoint, and bit 31 separates
the operations that drive the bus from those that touch only GRAM: with it an operation leaves TRACE and the settle count
(the MODEL'S own field, log entry 12), without it GRAM. -/
def Obligations.OpcodeMapSelectsOneRow : Prop :=
  (∀ row ∈ opcodeMap, ∀ w : Word,
      w &&& row.mask = row.pattern ↔ ∃ i, decodeRequest w = .ok i ∧ i.opcode = row.sample.opcode) ∧
  opcodeMap.Pairwise (fun r r' => ∀ w : Word, ¬(w &&& r.mask = r.pattern ∧ w &&& r'.mask = r'.pattern)) ∧
  (∀ (w : Word) (i : Instr) (s t : State), decodeRequest w = .ok i → exec i s = .next t →
      (w.getLsbD 31 = true → t.trace = s.trace ∧ t.settles = s.settles) ∧
      (w.getLsbD 31 = false → t.gram = s.gram))

/-- 30_encoding.md R53: a reserved word presented to an idle DCB completes in one step as a no-op with result 0,
whatever the step is and whatever the inputs are; only the latch and the response change, and the word leaves the
port. -/
def Obligations.ReservedWordIsANoOp : Prop :=
  ∀ (s : State) (w : Word) (rest : List Word), s.presents w rest → reservedWord w →
    step s = .next { s with req := w, requests := rest, rsp := { valid := true, bit := false } }

/-! ## The frame-buffer operations -/

/-- 30_encoding.md R54, with 10_state.md R11: the colour codes, and the effect of each on the addressed pixel and on no
other pixel. -/
def Obligations.ColourCodesActOnOnePixel : Prop :=
  ∀ (s : State) (c : BitVec 2) (x y : Byte), s.seq.st = .idle → s.gram.wf = true → x.toNat < 128 → y.toNat < 64 →
    ∃ i t, decodeRequest (mkRequest 0x8#4 (0#6 ++ c) y x) = .ok i ∧ exec i s = .next t ∧
      t.pixel x.toNat y.toNat =
        (if c = 0#2 then false
         else if c = 1#2 then true
         else if c = 2#2 then !s.pixel x.toNat y.toNat
         else s.pixel x.toNat y.toNat) ∧
      ∀ x' y' : Nat, x' < 128 → y' < 64 → ¬(x' = x.toNat ∧ y' = y.toNat) → t.pixel x' y' = s.pixel x' y'

/-- 40_framebuffer_ops.md R70: PIXSET completes for every operand; in range it rewrites the one cell by the colour's
operation with the one-bit mask, out of range it changes nothing; nothing else changes. -/
def Obligations.PixsetRewritesOneCell : Prop :=
  ∀ (s : State) (x y : Byte) (color : Color), s.seq.st = .idle → s.gram.wf = true →
    ∃ g : Memory,
      exec (.pixset x y color) s = .next { s with gram := g, rsp := { valid := true, bit := false } } ∧
      (¬(x.toNat < 128 ∧ y.toNat < 64) → g = s.gram) ∧
      (x.toNat < 128 ∧ y.toNat < 64 → ∀ p c : Nat, p < 8 → c < 128 →
        g.read (p * 128 + c) =
          if p = y.toNat / 8 ∧ c = x.toNat then
            (match color with
             | .white => s.gram.read (p * 128 + c) ||| 1#8 <<< (y.toNat % 8)
             | .black => s.gram.read (p * 128 + c) &&& ~~~(1#8 <<< (y.toNat % 8))
             | .inverse => s.gram.read (p * 128 + c) ^^^ 1#8 <<< (y.toNat % 8)
             | .reserved3 => s.gram.read (p * 128 + c))
          else s.gram.read (p * 128 + c))

/-- 40_framebuffer_ops.md R73: the four laws (the first as the spec corrects it). -/
def Obligations.FrameBufferLaws : Prop :=
  (∀ (s t u : State) (x y : Byte), s.gram.wf = true → x.toNat < 128 → y.toNat < 64 →
      exec (.pixset x y .white) s = .next t → exec (.pixset x y .black) t = .next u →
      u.pixel x.toNat y.toNat = false ∧
      ∀ x' y' : Nat, x' < 128 → y' < 64 → ¬(x' = x.toNat ∧ y' = y.toNat) → u.pixel x' y' = s.pixel x' y') ∧
  (∀ (s t : State), exec .clear s = .next t → ∀ p c : Nat, p < 8 → c < 128 → t.cell p c = 0x00#8) ∧
  (∀ (s t u : State) (x y : Byte), s.gram.wf = true →
      exec (.pixset x y .inverse) s = .next t → exec (.pixset x y .inverse) t = .next u → u.gram = s.gram) ∧
  (∀ (s t : State) (x y : Byte) (color : Color), ¬(x.toNat < 128 ∧ y.toNat < 64) →
      exec (.pixset x y color) s = .next t → t.gram = s.gram)

/-- 40_framebuffer_ops.md R71: CLEAR completes, every cell reads 0x00, nothing is sent and nothing else changes. -/
def Obligations.ClearZeroesEveryCell : Prop :=
  ∀ s : State, s.seq.st = .idle →
    ∃ g : Memory, exec .clear s = .next { s with gram := g, rsp := { valid := true, bit := false } } ∧
      ∀ p c : Nat, p < 8 → c < 128 → g.read (p * 128 + c) = 0x00#8

/-- 40_framebuffer_ops.md R71: CLEAR leaves the memory that the loop of its pseudocode leaves, one write of 0x00 to
each of the 1024 cells in order. -/
def Obligations.ClearIsItsLoop : Prop :=
  ∀ s t : State, s.gram.wf = true → exec .clear s = .next t →
    t.gram =
      ((List.range 8).flatMap fun p => (List.range 128).map fun c => p * 128 + c).foldl
        (fun m a => m.write a 0x00#8) s.gram

/-- 40_framebuffer_ops.md R72 in range, 10_state.md R11: PIXGET completes, its result is the bit of the pixel, and
nothing else changes. -/
def Obligations.PixgetReturnsThePixel : Prop :=
  ∀ (s : State) (x y : Byte), s.seq.st = .idle → x.toNat < 128 → y.toNat < 64 →
    exec (.pixget x y) s =
      .next { s with
        rsp := { valid := true, bit := (s.gram.read (y.toNat / 8 * 128 + x.toNat)).getLsbD (y.toNat % 8) } }

/-- 40_framebuffer_ops.md R72 outside the display, 60_exceptions.md R143: exec refuses such a PIXGET by name, and so
does the step that has one presented, at either grain (log entry 9). -/
def Obligations.PixgetOutsideIsRefused : Prop :=
  ∀ (s : State) (x y : Byte), ¬(x.toNat < 128 ∧ y.toNat < 64) →
    (s.seq.st = .idle → exec (.pixget x y) s = .refused .pixgetOutside) ∧
    (∀ w rest, s.presents w rest → decodeRequest w = .ok (.pixget x y) → step s = .refused .pixgetOutside)

/-! ## Addressing and data -/

/-- 41_addressing_and_data.md R80: SETPOS completes for every operand and sends the three command bytes of its
formulas, in order; nothing else changes. The MODEL'S choices: `bus_rs` and `bus_byte` with `bus_valid` 0 (log entry
18) and the settle count (log entry 12). -/
def Obligations.SetposSendsTheTriplet : Prop :=
  ∀ (s : State) (x page : Byte), s.seq.st = .idle → s.busDone = true →
    exec (.setpos x page) s =
      .next { s with
        trace :=
          if s.busOk then
            s.trace ++ [⟨.cmd, 0xB0#8 + page⟩, ⟨.cmd, 0x10#8 ||| ((x &&& 0xF0#8) >>> 4)⟩, ⟨.cmd, x &&& 0x0F#8⟩]
          else s.trace
        settles := s.settles + 3
        bus := { valid := false, rs := 0x00#8, byte := x &&& 0x0F#8 }
        rsp := { valid := true, bit := false } }

/-- 30_encoding.md R57: the bit patterns of the triplet's bytes for operands in range, the nibbles of the column for
every `x`, and what the page byte is for a page of 8 or more. -/
def Obligations.TripletBitPatterns : Prop :=
  (∀ x page : Byte, triplet x page =
      [⟨.cmd, 0xB0#8 + page⟩, ⟨.cmd, 0x10#8 ||| ((x &&& 0xF0#8) >>> 4)⟩, ⟨.cmd, x &&& 0x0F#8⟩]) ∧
  (∀ page : Byte, page.toNat < 8 → 0xB0#8 + page = 0b10110#5 ++ page.extractLsb' 0 3) ∧
  (∀ x : Byte, 0x10#8 ||| ((x &&& 0xF0#8) >>> 4) = 0b0001#4 ++ x.extractLsb' 4 4) ∧
  (∀ x : Byte, x.toNat < 128 → 0x10#8 ||| ((x &&& 0xF0#8) >>> 4) = 0b00010#5 ++ x.extractLsb' 4 3) ∧
  (∀ x : Byte, x &&& 0x0F#8 = 0b0000#4 ++ x.extractLsb' 0 4) ∧
  (∀ page : Byte, 8 ≤ page.toNat → page.toNat ≤ 15 → 0xB0#8 + page = 0b1011#4 ++ page.extractLsb' 0 4) ∧
  (∀ x : Byte, 0x10#8 ||| ((x &&& 0xF0#8) >>> 4) = 0x10#8 ||| (x >>> 4)) ∧
  0xB0#8 + 16#8 = 0xC0#8 ∧
  (∀ page : Byte, 0x50 ≤ page.toNat → (0xB0#8 + page).toNat = page.toNat - 0x50)

/-- 41_addressing_and_data.md R81: DATA completes for every byte and sends it tagged 0x40; nothing else changes. The
MODEL'S choices: `bus_rs` and `bus_byte` with `bus_valid` 0 (log entry 18) and the settle count (log entry 12). -/
def Obligations.DataSendsOneByte : Prop :=
  ∀ (s : State) (b : Byte), s.seq.st = .idle → s.busDone = true →
    exec (.data b) s =
      .next { s with
        trace := if s.busOk then s.trace ++ [⟨.data, b⟩] else s.trace
        settles := s.settles + 1
        bus := { valid := false, rs := 0x40#8, byte := b }
        rsp := { valid := true, bit := false } }

/-! ## Initialization and power -/

/-- 42_init_and_power.md R90: INIT completes; with a valid transport it sends the 27 bytes and READY and the result are
1, with an invalid one it sends nothing and READY and the result are 0; nothing else changes. The MODEL'S choices, in
the first clause: `bus_rs` and `bus_byte` with `bus_valid` 0 (log entry 18) and the settle count (log entry 12). -/
def Obligations.InitSendsTheSequenceAndSetsReady : Prop :=
  (∀ s : State, s.seq.st = .idle → s.busOk = true → s.busDone = true →
    exec .init s =
      .next { s with
        trace := s.trace ++
          ([0xAE#8, 0x00#8, 0x10#8, 0x40#8, 0xB0#8, 0x81#8, 0xFF#8, 0xA1#8, 0xA6#8, 0xA8#8, 0x3F#8, 0xC8#8, 0xD3#8,
            0x00#8, 0xD5#8, 0x80#8, 0xD8#8, 0x05#8, 0xD9#8, 0xF1#8, 0xDA#8, 0x12#8, 0xDB#8, 0x30#8, 0x8D#8, 0x14#8,
            0xAF#8].map fun b => ⟨.cmd, b⟩)
        ready := true
        settles := s.settles + 27
        bus := { valid := false, rs := 0x00#8, byte := 0xAF#8 }
        rsp := { valid := true, bit := true } }) ∧
  (∀ s : State, s.seq.st = .idle → s.busOk = false →
    exec .init s = .next { s with ready := false, rsp := { valid := true, bit := false } })

/-- 42_init_and_power.md R91: WAKE completes and sends `8D 14 AF`; nothing else changes. The three bytes are DEDUCED
(30_encoding.md R60; log entry 19). The MODEL'S choices: `bus_rs` and `bus_byte` with `bus_valid` 0 (log entry 18) and
the settle count (log entry 12). -/
def Obligations.WakeSendsItsBytes : Prop :=
  ∀ s : State, s.seq.st = .idle → s.busDone = true →
    exec .wake s =
      .next { s with
        trace := if s.busOk then s.trace ++ [⟨.cmd, 0x8D#8⟩, ⟨.cmd, 0x14#8⟩, ⟨.cmd, 0xAF#8⟩] else s.trace
        settles := s.settles + 3
        bus := { valid := false, rs := 0x00#8, byte := 0xAF#8 }
        rsp := { valid := true, bit := false } }

/-- 42_init_and_power.md R92: SLEEP completes and sends `8D`, the parameter `CP_DISABLE_ARG` (for every value of it) and
`AE`; nothing else changes. The MODEL'S choices: `bus_rs` and `bus_byte` with `bus_valid` 0 (log entry 18) and the settle
count (log entry 12). -/
def Obligations.SleepSendsItsBytes : Prop :=
  ∀ s : State, s.seq.st = .idle → s.busDone = true →
    exec .sleep s =
      .next { s with
        trace :=
          if s.busOk then s.trace ++ [⟨.cmd, 0x8D#8⟩, ⟨.cmd, s.params.cpDisableArg⟩, ⟨.cmd, 0xAE#8⟩] else s.trace
        settles := s.settles + 3
        bus := { valid := false, rs := 0x00#8, byte := 0xAE#8 }
        rsp := { valid := true, bit := false } }

/-! ## Refresh -/

/-- 43_refresh.md R100: REFRESH completes; it sends 1048 events, the triplet of page `p` at `131 p` and the cell of
column `c` at `131 p + 3 + c`; nothing else changes. The ascending page order is DEDUCED (92_eei_decisions.md D10,
INFERRED; log entry 19). The MODEL'S choices: `bus_rs` and `bus_byte` with `bus_valid` 0 (log entry 18) and the settle
count (log entry 12). -/
def Obligations.RefreshStreamsEveryPage : Prop :=
  ∀ s : State, s.seq.st = .idle → s.busDone = true →
    ∃ es : List BusEvent,
      exec .refresh s =
        .next { s with
          trace := if s.busOk then s.trace ++ es else s.trace
          settles := s.settles + 1048
          bus := { valid := false, rs := 0x40#8, byte := s.gram.read 1023 }
          rsp := { valid := true, bit := false } } ∧
      es.length = 1048 ∧
      ∀ p : Nat, p < 8 →
        es[131 * p]? = some ⟨.cmd, 0xB0#8 + BitVec.ofNat 8 p⟩ ∧
        es[131 * p + 1]? = some ⟨.cmd, 0x10#8⟩ ∧
        es[131 * p + 2]? = some ⟨.cmd, 0x00#8⟩ ∧
        ∀ c : Nat, c < 128 → es[131 * p + 3 + c]? = some ⟨.data, s.gram.read (p * 128 + c)⟩

/-- 43_refresh.md R101: REFRANGE in every case: invalid, in order, and reversed under each policy. It completes in all
of them but a reversed span under the policy `refuse`, which has no meaning and stops by name (60_exceptions.md R143);
nothing but TRACE, the bus port, the settle count and the response changes. That `endCol` is included is DEDUCED
(92_eei_decisions.md D11, INFERRED; log entry 19). The MODEL'S choices: `bus_rs` and `bus_byte` with `bus_valid` 0 (log
entry 18) and the settle count (log entry 12). -/
def Obligations.RefrangeStreamsItsSpan : Prop :=
  ∀ (s : State) (page a z : Byte), s.seq.st = .idle →
    (¬(page.toNat < 8 ∧ a.toNat < 128 ∧ z.toNat < 128) →
      exec (.refrange page a z) s = .next { s with rsp := { valid := true, bit := false } }) ∧
    (page.toNat < 8 → a.toNat < 128 → z.toNat < 128 → a.toNat ≤ z.toNat → s.busDone = true →
      ∃ es : List BusEvent,
        exec (.refrange page a z) s =
          .next { s with
            trace := if s.busOk then s.trace ++ es else s.trace
            settles := s.settles + (3 + (z.toNat - a.toNat + 1))
            bus := { valid := false, rs := 0x40#8, byte := s.gram.read (page.toNat * 128 + z.toNat) }
            rsp := { valid := true, bit := false } } ∧
        es.length = 3 + (z.toNat - a.toNat + 1) ∧
        es[0]? = some ⟨.cmd, 0xB0#8 + page⟩ ∧
        es[1]? = some ⟨.cmd, 0x10#8 ||| ((a &&& 0xF0#8) >>> 4)⟩ ∧
        es[2]? = some ⟨.cmd, a &&& 0x0F#8⟩ ∧
        ∀ k : Nat, k ≤ z.toNat - a.toNat →
          es[3 + k]? = some ⟨.data, s.gram.read (page.toNat * 128 + (a.toNat + k))⟩) ∧
    (page.toNat < 8 → a.toNat < 128 → z.toNat < 128 → z.toNat < a.toNat →
      (s.params.rangeReversed = .setposOnly → s.busDone = true →
        exec (.refrange page a z) s =
          .next { s with
            trace :=
              if s.busOk then
                s.trace ++ [⟨.cmd, 0xB0#8 + page⟩, ⟨.cmd, 0x10#8 ||| ((a &&& 0xF0#8) >>> 4)⟩, ⟨.cmd, a &&& 0x0F#8⟩]
              else s.trace
            settles := s.settles + 3
            bus := { valid := false, rs := 0x00#8, byte := a &&& 0x0F#8 }
            rsp := { valid := true, bit := false } }) ∧
      (s.params.rangeReversed = .noop →
        exec (.refrange page a z) s = .next { s with rsp := { valid := true, bit := false } }) ∧
      (s.params.rangeReversed = .refuse → exec (.refrange page a z) s = .refused .reversedRange))

/-- 43_refresh.md R101 (d), R100: a full refresh sends what the eight whole-page ranged refreshes send one after
another. -/
def Obligations.RefreshIsEightWholePages : Prop :=
  ∀ s : State, s.seq.st = .idle → s.busDone = true →
    ∃ t u, exec .refresh s = .next t ∧
      (List.range 8).foldl
        (fun r p => andThen r (exec (.refrange (BitVec.ofNat 8 p) 0x00#8 0x7F#8))) (.next s) = .next u ∧
      t = u

/-! ## The bus rows -/

/-- 30_encoding.md R56 to R59: each bus row of one event completes and writes that event, tag and byte; nothing else
changes. The MODEL'S choices: that a row's meaning is its bus write alone (log entry 15), `bus_rs` and `bus_byte` with
`bus_valid` 0 (log entry 18), and the settle count (log entry 12). -/
def Obligations.OneEventBusRowsWriteTheirByte : Prop :=
  ∀ (s : State) (page : BitVec 3) (h l : BitVec 4) (b : Byte), s.busDone = true →
    ∀ row ∈ ([ (.busPagesel page, ⟨.cmd, 0xB0#8 + page.setWidth 8⟩), (.busColhi h, ⟨.cmd, 0x10#8 + h.setWidth 8⟩),
               (.busCollo l, ⟨.cmd, l.setWidth 8⟩), (.busData b, ⟨.data, b⟩), (.busDispoff, ⟨.cmd, 0xAE#8⟩),
               (.busInitCollo0, ⟨.cmd, 0x00#8⟩), (.busInitColhi0, ⟨.cmd, 0x10#8⟩), (.busStartline0, ⟨.cmd, 0x40#8⟩),
               (.busInitPage0, ⟨.cmd, 0xB0#8⟩), (.busSegremap, ⟨.cmd, 0xA1#8⟩), (.busA6, ⟨.cmd, 0xA6#8⟩),
               (.busComscan, ⟨.cmd, 0xC8#8⟩), (.busDispon, ⟨.cmd, 0xAF#8⟩) ] : List (Instr × BusEvent)),
      exec row.1 s =
        .next { s with
          trace := if s.busOk then s.trace ++ [row.2] else s.trace
          settles := s.settles + 1
          bus := { valid := false, rs := if row.2.tag = .data then 0x40#8 else 0x00#8, byte := row.2.byte }
          rsp := { s.rsp with valid := false } }

/-- 30_encoding.md R58 to R60: each bus row of two events completes and writes two command bytes, in order; the second
of BUS.CPDISABLE is the parameter; nothing else changes. The MODEL'S choices: that a row's meaning is its bus writes
alone (log entry 15), `bus_rs` and `bus_byte` with `bus_valid` 0 (log entry 18), and the settle count (log entry 12). -/
def Obligations.TwoEventBusRowsWriteTheirBytes : Prop :=
  ∀ s : State, s.busDone = true →
    ∀ row ∈ ([ (.busContrast, 0x81#8, 0xFF#8), (.busMuxratio, 0xA8#8, 0x3F#8), (.busDispoffset, 0xD3#8, 0x00#8),
               (.busOscdiv, 0xD5#8, 0x80#8), (.busD8, 0xD8#8, 0x05#8), (.busPrecharge, 0xD9#8, 0xF1#8),
               (.busCompins, 0xDA#8, 0x12#8), (.busVcomh, 0xDB#8, 0x30#8), (.busCpenable, 0x8D#8, 0x14#8),
               (.busCpdisable, 0x8D#8, s.params.cpDisableArg) ] : List (Instr × Byte × Byte)),
      exec row.1 s =
        .next { s with
          trace := if s.busOk then s.trace ++ [⟨.cmd, row.2.1⟩, ⟨.cmd, row.2.2⟩] else s.trace
          settles := s.settles + 2
          bus := { valid := false, rs := 0x00#8, byte := row.2.2 }
          rsp := { s.rsp with valid := false } }

/-- 30_encoding.md R56: what a bus row writes is what its encoding says, one event or two. ASSUMED for BUS.CPDISABLE: its
row's `0x10` is the spec's general knowledge, so the clause is for that parameter value only (PRESUMED, log entry 5). The
MODEL'S choice: that a row's next state is the delivery alone (log entry 15). -/
def Obligations.BusRowsWriteWhatTheyEncode : Prop :=
  ∀ (i : Instr) (s t : State), exec i s = .next t →
    (∀ w : BitVec 16, encode i = .bus w → ∃ e : BusEvent, e.word = w ∧ t = s.deliver e) ∧
    (∀ w : Word, encode i = .busPair w → (i = .busCpdisable → s.params.cpDisableArg = 0x10#8) →
      ∃ e e' : BusEvent, e.word ++ e'.word = w ∧ t = (s.deliver e).deliver e')

/-! ## The step -/

/-- At the operation grain a step of an idle DCB with a request presented is exec of the decoded operation, on the
state with the word latched and taken off the port (44_sequencer.md R111; log entries 1, 2). -/
def Obligations.StepRunsThePresentedRequest : Prop :=
  ∀ (s : State) (w : Word) (rest : List Word) (i : Instr), s.presents w rest → s.grain = .operation →
    decodeRequest w = .ok i →
    step s = exec i { s with requests := rest, req := w, rsp := { s.rsp with valid := false } }

/-- At the operation grain a step of a busy DCB is exec of the bus row at the sequencer's position, and then the
updates of `SEQ` for its bus writes (10_state.md R17; log entries 2, 15). -/
def Obligations.StepRunsTheBusRowAtTheSequencer : Prop :=
  ∀ (s t : State) (i : Instr) (n : Nat), s.rst = false → s.seq.st ≠ .idle → s.grain = .operation →
    fetchRow s = some (i, n) → exec i s = .next t → step s = .next (advanceBy n t)

/-- The word of a table row, put where the next step fetches it, is fetched and run: a request from an idle DCB; a bus
row at its sequencer position, where the step is exec of the row and then the updates of `SEQ` for its bus writes, as
many as the row has (log entries 1, 14, 15). -/
def Obligations.FetchWordIsFetchedAndRun : Prop :=
  ∀ (s : State) (nbits w : Nat) (i : Instr), decodeTableWord nbits w = some i →
    (i.opcode.isSome = true → s.seq.st = .idle →
      step (s.withFetchWord nbits w) =
        exec i { s with
          rst := false, grain := .operation, req := BitVec.ofNat 32 w, rsp := { s.rsp with valid := false } }) ∧
    (i.opcode = none →
      (s.withFetchWord nbits w).busy = true ∧
      fetchRow (s.withFetchWord nbits w) = some (i, opBusWrites i s) ∧
      step (s.withFetchWord nbits w) =
        andThen (exec i (s.withFetchWord nbits w)) fun t => .next (advanceBy (opBusWrites i s) t))

/-- 44_sequencer.md R110: idle with no request, a step changes nothing but the response pulse, which ends; `req_ready`
is 1, `busy` is 0, and in a legal state `bus_valid` is 0. -/
def Obligations.IdleWithoutRequestDoesNothing : Prop :=
  ∀ s : State, s.legal = true → s.rst = false → s.seq.st = .idle → s.requests = [] →
    step s = .next { s with rsp := { s.rsp with valid := false } } ∧
    s.reqReady = true ∧ s.busy = false ∧ s.bus.valid = false

/-- 44_sequencer.md R111: the accept step, every row of its table. The MODEL'S choices: that it is one step of the grain
`busWrite` (log entry 2), and `rsp_valid` while no operation completes (log entry 18). -/
def Obligations.AcceptStepFollowsItsTable : Prop :=
  ∀ (s s1 : State) (w : Word) (rest : List Word), s.presents w rest → s.grain = .busWrite →
    s1 = { s with requests := rest, req := w, rsp := { s.rsp with valid := false } } →
    (reservedWord w → step s = .next { s1 with rsp := { valid := true, bit := false } }) ∧
    (∀ x y color, decodeRequest w = .ok (.pixset x y color) → step s = exec (.pixset x y color) s1) ∧
    (decodeRequest w = .ok .clear → step s = exec .clear s1) ∧
    (∀ x y, decodeRequest w = .ok (.pixget x y) → step s = exec (.pixget x y) s1) ∧
    (decodeRequest w = .ok .init → s.busOk = false →
      step s = .next { s1 with ready := false, rsp := { valid := true, bit := false } }) ∧
    (decodeRequest w = .ok .init → s.busOk = true →
      step s = .next { s1 with seq := { s.seq with st := .list, list := .init, i := 0#5 } }) ∧
    (decodeRequest w = .ok .wake →
      step s = .next { s1 with seq := { s.seq with st := .list, list := .wake, i := 0#5 } }) ∧
    (decodeRequest w = .ok .sleep →
      step s = .next { s1 with seq := { s.seq with st := .list, list := .sleep, i := 0#5 } }) ∧
    (∀ x page, decodeRequest w = .ok (.setpos x page) →
      step s = .next { s1 with seq := { s.seq with st := .pos, pg := page, x := x, i := 0#5, strm := false } }) ∧
    (∀ b, decodeRequest w = .ok (.data b) → step s = .next { s1 with seq := { s.seq with st := .data } }) ∧
    (decodeRequest w = .ok .refresh →
      step s = .next { s1 with
        seq := { s.seq with
          st := .pos, pg := 0#8, x := 0#8, i := 0#5, strm := true, full := true, col := 0#8, last := 127#8 } }) ∧
    (∀ page a z, decodeRequest w = .ok (.refrange page a z) →
      (¬(page.toNat < 8 ∧ a.toNat < 128 ∧ z.toNat < 128) →
        step s = .next { s1 with rsp := { valid := true, bit := false } }) ∧
      (page.toNat < 8 → a.toNat < 128 → z.toNat < 128 →
        (a.toNat ≤ z.toNat →
          step s = .next { s1 with
            seq := { s.seq with
              st := .pos, pg := page, x := a, i := 0#5, strm := true, full := false, col := a, last := z } }) ∧
        (z.toNat < a.toNat →
          (s.params.rangeReversed = .setposOnly →
            step s = .next { s1 with seq := { s.seq with st := .pos, pg := page, x := a, i := 0#5, strm := false } }) ∧
          (s.params.rangeReversed = .noop → step s = .next { s1 with rsp := { valid := true, bit := false } }) ∧
          (s.params.rangeReversed = .refuse → step s = .refused .reversedRange))))

/-- 44_sequencer.md R112: while an operation is in progress `req_ready` is 0, the presented requests and the latch
stay, and GRAM is written by nothing, at either grain. -/
def Obligations.BusyStepKeepsRequestsAndGram : Prop :=
  ∀ s t : State, s.rst = false → s.seq.st ≠ .idle → step s = .next t →
    s.reqReady = false ∧ t.requests = s.requests ∧ t.req = s.req ∧ t.gram = s.gram

/-- 44_sequencer.md R113: a step in S_LIST sends the byte of the list at `SEQ.i`, then goes on to the next or finishes;
the end of INIT sets READY and returns 1. The MODEL'S choices, in `deliver`: the bus port's values after the write (log
entry 18) and the settle count (log entry 12). -/
def Obligations.ListStepSendsTheNextByte : Prop :=
  ∀ (s t : State) (bytes : List Byte) (b : Byte), s.rst = false → s.grain = .busWrite → s.busDone = true →
    s.seq.st = .list →
    bytes =
      (match s.seq.list with
       | .init => initSeq
       | .wake => [0x8D#8, 0x14#8, 0xAF#8]
       | .sleep => [0x8D#8, s.params.cpDisableArg, 0xAE#8]) →
    bytes[s.seq.i.toNat]? = some b → t = s.deliver ⟨.cmd, b⟩ →
    step s = .next
      (if s.seq.i.toNat = bytes.length - 1 then
        (if s.seq.list = .init then
          { t with ready := true, seq := { s.seq with st := .idle }, rsp := { valid := true, bit := true } }
         else { t with seq := { s.seq with st := .idle }, rsp := { valid := true, bit := false } })
       else { t with seq := { s.seq with i := s.seq.i + 1#5 } })

/-- 44_sequencer.md R114: a step in S_POS sends the byte of the triplet at `SEQ.i`. The MODEL'S choices, in `deliver`: the
bus port's values after the write (log entry 18) and the settle count (log entry 12). -/
def Obligations.PosStepSendsTheTripletByte : Prop :=
  ∀ s : State, s.rst = false → s.grain = .busWrite → s.busDone = true → s.seq.st = .pos →
    (s.seq.i = 0#5 →
      step s = .next { s.deliver ⟨.cmd, 0xB0#8 + s.seq.pg⟩ with seq := { s.seq with i := 1#5 } }) ∧
    (s.seq.i = 1#5 →
      step s = .next { s.deliver ⟨.cmd, 0x10#8 ||| ((s.seq.x &&& 0xF0#8) >>> 4)⟩ with
        seq := { s.seq with i := 2#5 } }) ∧
    (s.seq.i = 2#5 → s.seq.strm = true →
      step s = .next { s.deliver ⟨.cmd, s.seq.x &&& 0x0F#8⟩ with seq := { s.seq with st := .stream } }) ∧
    (s.seq.i = 2#5 → s.seq.strm = false →
      step s = .next { s.deliver ⟨.cmd, s.seq.x &&& 0x0F#8⟩ with
        seq := { s.seq with st := .idle }, rsp := { valid := true, bit := false } })

/-- 44_sequencer.md R115: a step in S_DATA sends the latched `A` operand as data and finishes. The MODEL'S choices, in
`deliver`: the bus port's values after the write (log entry 18) and the settle count (log entry 12). -/
def Obligations.DataStepSendsTheLatchedByte : Prop :=
  ∀ s : State, s.rst = false → s.grain = .busWrite → s.busDone = true → s.seq.st = .data →
    step s = .next { s.deliver ⟨.data, s.req.extractLsb' 0 8⟩ with
      seq := { s.seq with st := .idle }, rsp := { valid := true, bit := false } }

/-- 44_sequencer.md R116: a step in S_STREAM of a legal state sends the cell at `(SEQ.pg, SEQ.col)`, which lies inside
GRAM, and goes on to the next column, the next page, or idle. The MODEL'S choices, in `deliver`: the bus port's values
after the write (log entry 18) and the settle count (log entry 12). -/
def Obligations.StreamStepSendsTheNextCell : Prop :=
  ∀ s t : State, s.legal = true → s.rst = false → s.grain = .busWrite → s.busDone = true → s.seq.st = .stream →
    t = s.deliver ⟨.data, s.gram.read (s.seq.pg.toNat * 128 + s.seq.col.toNat)⟩ →
    (s.seq.col.toNat ≤ s.seq.last.toNat ∧ s.seq.last.toNat ≤ 127 ∧ s.seq.pg.toNat ≤ 7) ∧
    step s = .next
      (if s.seq.col ≠ s.seq.last then { t with seq := { s.seq with col := s.seq.col + 1#8 } }
       else if s.seq.full = true ∧ s.seq.pg ≠ 7#8 then
        { t with seq := { s.seq with pg := s.seq.pg + 1#8, x := 0#8, col := 0#8, i := 0#5, st := .pos } }
       else { t with seq := { s.seq with st := .idle }, rsp := { valid := true, bit := false } })

/-- 44_sequencer.md R117, R120: at the bus-write grain, while `bus_done` is 0 a busy legal DCB presents the position's
event on the bus port and waits: only the bus port and the response pulse change, and the next step is the same wait. The
MODEL'S choice: TRACE does not hold the event while it waits (log entry 24). -/
def Obligations.BusWriteWaitsForTheTransport : Prop :=
  ∀ s : State, s.legal = true → s.rst = false → s.grain = .busWrite → s.busDone = false → s.seq.st ≠ .idle →
    ∃ e t, seqEvent s = .ok e ∧
      t = { s with bus := { valid := true, rs := e.tag.code, byte := e.byte }, rsp := { s.rsp with valid := false } } ∧
      step s = .next t ∧ step t = .next t

/-- 44_sequencer.md R120, the model's form of it at the operation grain (log entry 4): an operation or bus row that has
a bus write to make is stuck by name while the transport does not answer. -/
def Obligations.OperationIsStuckWithoutTheTransport : Prop :=
  ∀ (i : Instr) (s : State), s.busDone = false → 0 < opBusWrites i s → (i.opcode.isSome = true → s.seq.st = .idle) →
    exec i s = .fault .transportStalled

/-- 60_exceptions.md R143: a request operation issued while another is in progress is refused by name. -/
def Obligations.RequestWhileBusyIsRefused : Prop :=
  ∀ (i : Instr) (s : State), i.opcode.isSome = true → s.seq.st ≠ .idle → exec i s = .refused .requestWhileBusy

/-- 44_sequencer.md R123, R119: from an idle state with a request word presented, the bus-write steps give, after one
step and one per bus write and not before, an idle state with the operation rule's GRAM, READY, TRACE and result; a
reserved word takes one step, leaves GRAM, READY and TRACE, and has the result 0. The settle count, which agrees too, is
the MODEL'S own field (log entry 12). -/
def Obligations.StepsAgreeWithTheOperationRule : Prop :=
  ∀ (s : State) (w : Word) (rest : List Word), s.presents w rest → s.grain = .busWrite → s.busDone = true →
    (∀ e, decodeRequest w = .error e →
      ∃ t, stepsOf 1 s = .next t ∧ t.seq.st = .idle ∧ t.gram = s.gram ∧ t.ready = s.ready ∧ t.trace = s.trace ∧
        t.rsp = { valid := true, bit := false }) ∧
    (∀ (i : Instr) (u : State), decodeRequest w = .ok i →
      exec i { s with requests := rest, req := w, rsp := { s.rsp with valid := false } } = .next u →
      ∃ t, stepsOf (1 + opBusWrites i s) s = .next t ∧ t.seq.st = .idle ∧
        t.gram = u.gram ∧ t.ready = u.ready ∧ t.trace = u.trace ∧ t.rsp = u.rsp ∧ t.settles = u.settles ∧
        ∀ k, 0 < k → k < 1 + opBusWrites i s → ∃ v, stepsOf k s = .next v ∧ v.seq.st ≠ .idle)

/-- At the operation grain a step of a busy DCB does what its bus row's one or two bus-write steps do (44_sequencer.md
R113 to R117; log entries 2, 15). -/
def Obligations.RowStepIsItsBusWriteSteps : Prop :=
  ∀ (s t : State) (i : Instr) (n : Nat), s.rst = false → s.seq.st ≠ .idle → s.grain = .operation →
    fetchRow s = some (i, n) → step s = .next t →
    stepsOf n { s with grain := .busWrite } = .next { t with grain := .busWrite }

/-- 44_sequencer.md R119, 70_reset_and_hazards.md R163: an operation or bus row lets as many settle delays pass as its
row of the table has bus writes, whatever the transport delivers. -/
def Obligations.EveryOperationMakesItsBusWrites : Prop :=
  ∀ (i : Instr) (s t : State), exec i s = .next t → t.settles = s.settles + opBusWrites i s

/-! ## Reset -/

/-- 10_state.md R12: immediately after reset, and immediately after a CLEAR, every cell reads 0x00. -/
def Obligations.EveryCellIsZeroAfterResetAndClear : Prop :=
  (∀ p c : Nat, p < 8 → c < 128 → State.reset.cell p c = 0x00#8) ∧
  (∀ s t : State, s.rst = true → step s = .next t → ∀ p c : Nat, p < 8 → c < 128 → t.cell p c = 0x00#8) ∧
  (∀ s t : State, exec .clear s = .next t → ∀ p c : Nat, p < 8 → c < 128 → t.cell p c = 0x00#8)

/-- 70_reset_and_hazards.md R151, 10_state.md R21: what reset leaves, the values the spec states: in the state after
reset, and after a step with `rst`, where TRACE is empty but for a reset in the middle of an operation
(44_sequencer.md R122; log entry 10). -/
def Obligations.ResetLeavesTheStatedValues : Prop :=
  (∀ p c : Nat, p < 8 → c < 128 → State.reset.cell p c = 0x00#8) ∧
  State.reset.ready = false ∧ State.reset.seq.st = .idle ∧ State.reset.trace = [] ∧ State.reset.busy = false ∧
  State.reset.readyOut = false ∧ State.reset.bus.valid = false ∧ State.reset.rsp.valid = false ∧
  ∀ s : State, s.rst = true →
    ∃ t, step s = .next t ∧ (∀ p c : Nat, p < 8 → c < 128 → t.cell p c = 0x00#8) ∧ t.ready = false ∧
      t.seq.st = .idle ∧ t.busy = false ∧ t.readyOut = false ∧ t.bus.valid = false ∧ t.rsp.valid = false ∧
      (s.seq.st = .idle → t.trace = [])

/-- 44_sequencer.md R122: `rst` always completes: GRAM and READY and the sequencer take their reset values, no result is
given. Of an abandoned operation the events already sent stay, and the byte in flight is delivered or not; a reset of an
idle DCB leaves TRACE empty (10_state.md R20 a, R21; log entry 10). -/
def Obligations.RstAbandonsTheOperation : Prop :=
  ∀ s : State, s.rst = true →
    ∃ t, step s = .next t ∧ t.gram = [] ∧ t.ready = false ∧ t.seq.st = .idle ∧ t.rst = false ∧
      t.rsp.valid = false ∧ t.bus.valid = false ∧ t.requests = s.requests ∧ t.busOk = s.busOk ∧
      t.busDone = s.busDone ∧ t.params = s.params ∧
      (s.seq.st = .idle → t.trace = []) ∧
      (s.seq.st ≠ .idle →
        t.trace = s.trace ∨ (s.busOk = true ∧ ∃ e, seqEvent s = .ok e ∧ t.trace = s.trace ++ [e]))

/-! ## Invariants and whole-machine rules -/

/-- The state after reset is legal. -/
def Obligations.ResetStateIsLegal : Prop := State.reset.legal = true

/-- Every step keeps a state legal: GRAM canonical and inside its 1024 cells, the sequencer at a legal position with
the bounds of 44_sequencer.md R116, nothing on the bus port when idle and only the position's event otherwise,
`rsp_valid` only when idle. -/
def Obligations.EveryStepKeepsTheStateLegal : Prop :=
  ∀ s t : State, s.legal = true → step s = .next t → t.legal = true

/-- 60_exceptions.md R138: there is no trap. From a legal state, with a transport that answers (or one bus write at a
time), every step answers a next state; the exceptions are the two runs R143 tells a model to refuse, a reversed span
under the policy `refuse` and a PIXGET outside the display. -/
def Obligations.LegalStepNeverStops : Prop :=
  ∀ s : State, s.legal = true → (s.busDone = true ∨ s.grain = .busWrite) →
    (∃ t, step s = .next t) ∨ (step s = .refused .reversedRange ∧ s.params.rangeReversed = .refuse) ∨
    (step s = .refused .pixgetOutside ∧
      ∃ w rest x y, s.presents w rest ∧ decodeRequest w = .ok (.pixget x y) ∧ ¬(x.toNat < 128 ∧ y.toNat < 64))

/-- 10_state.md R10, 40_framebuffer_ops.md R74: but for reset, GRAM changes only in a step that accepts a PIXSET or a
CLEAR. -/
def Obligations.OnlyPixsetAndClearWriteGram : Prop :=
  ∀ s t : State, s.rst = false → step s = .next t → t.gram ≠ s.gram →
    s.seq.st = .idle ∧ ∃ w rest i, s.requests = w :: rest ∧ decodeRequest w = .ok i ∧
      (i = .clear ∨ ∃ x y color, i = .pixset x y color)

/-- 10_state.md R13: but for reset, READY changes only in INIT, and INIT makes it `bus_ok`. -/
def Obligations.OnlyInitWritesReady : Prop :=
  (∀ s t : State, s.rst = false → step s = .next t → t.ready ≠ s.ready →
    (s.seq.st = .idle ∧ ∃ w rest, s.requests = w :: rest ∧ decodeRequest w = .ok .init) ∨
    (s.seq.st = .list ∧ s.seq.list = .init)) ∧
  (∀ s t : State, exec .init s = .next t → t.ready = s.busOk ∧ t.rsp.bit = s.busOk)

/-- 10_state.md R13: no operation reads READY: with another READY an operation does the same, and leaves that READY
where it leaves READY alone. -/
def Obligations.NothingIsGatedOnReady : Prop :=
  ∀ (i : Instr) (s t : State) (b : Bool), exec i s = .next t →
    exec i { s with ready := b } = .next (if i = .init then t else { t with ready := b })

/-- 10_state.md R20 (a): since reset, TRACE is only ever appended to, by a step of any kind; a reset in the middle of an
operation does not shorten it either (44_sequencer.md R122), and a reset of an idle DCB starts it empty (log entry 10). -/
def Obligations.TraceIsOnlyAppendedTo : Prop :=
  ∀ s t : State, step s = .next t →
    (¬(s.rst = true ∧ s.seq.st = .idle) → ∃ es : List BusEvent, t.trace = s.trace ++ es) ∧
    (s.rst = true → s.seq.st = .idle → t.trace = [])

/-- 20_memory.md R38, R131: with an invalid transport no step delivers anything (TRACE stays, or is emptied by a reset of
an idle DCB), and every operation but INIT otherwise does what it does with a valid one. -/
def Obligations.InvalidTransportDeliversNothing : Prop :=
  (∀ s t : State, s.busOk = false → step s = .next t →
    t.trace = if s.rst = true ∧ s.seq.st = .idle then [] else s.trace) ∧
  (∀ (i : Instr) (s t : State), i ≠ .init → s.busOk = false → exec i s = .next t →
    ∃ u, exec i { s with busOk := true } = .next u ∧ { u with busOk := false, trace := s.trace } = t)

/-- 10_state.md R20 (b), R22: no step writes an input that the environment holds, a parameter, or the grain. -/
def Obligations.InputsAndParametersStay : Prop :=
  ∀ s t : State, step s = .next t →
    t.busOk = s.busOk ∧ t.busDone = s.busDone ∧ t.params = s.params ∧ t.grain = s.grain

/-! ## The display, under the reference sink (20_memory.md R48, ASSUMED; log entry 16) -/

/-- 20_memory.md R48, R47: under the reference sink, whatever the display held, a delivered REFRESH leaves its RAM equal
to GRAM. -/
def Obligations.RefreshMirrorsGramOnTheSink : Prop :=
  ∀ (s t : State) (d : Display), s.gram.wf = true → s.busOk = true → exec .refresh s = .next t →
    d.argPending = false → d.dram.wf = true →
    ∃ es, t.trace = s.trace ++ es ∧ (d.run es).dram = s.gram

/-- 20_memory.md R48: under the reference sink a delivered REFRANGE of a valid span writes that span of the display's
RAM and leaves the rest. -/
def Obligations.RefrangeMirrorsItsSpanOnTheSink : Prop :=
  ∀ (s t : State) (d : Display) (page a z : Byte), s.busOk = true → exec (.refrange page a z) s = .next t →
    page.toNat < 8 → a.toNat ≤ z.toNat → z.toNat < 128 → d.argPending = false → d.dram.wf = true →
    ∃ es, t.trace = s.trace ++ es ∧
      ∀ p c : Nat, p < 8 → c < 128 →
        (d.run es).cell p c =
          if p = page.toNat ∧ a.toNat ≤ c ∧ c ≤ z.toNat then s.cell p c else d.cell p c

/-- 70_reset_and_hazards.md R160, R154: under the reference sink INIT leaves the position at column 0, page 0 and the
display's RAM as it was. -/
def Obligations.InitMovesThePositionOnTheSink : Prop :=
  ∀ (s t : State) (d : Display), s.busOk = true → exec .init s = .next t → d.argPending = false →
    ∃ es, t.trace = s.trace ++ es ∧ (d.run es).dp = 0#3 ∧ (d.run es).dc = 0#8 ∧ (d.run es).dram = d.dram ∧
      (d.run es).argPending = false

/-! ## Pseudo-operations -/

/-- 30_encoding.md R63: the fixed expansions. The MODEL'S choice: DIRECT with no data byte is SETPOS alone (log entry 21). -/
def Obligations.PseudoOperationsExpand : Prop :=
  ∀ (x y page : Byte) (bytes : List Byte),
    expandPseudo (.toggle x y) = [.pixset x y .inverse] ∧
    expandPseudo .sync = [.refresh] ∧
    expandPseudo .clrdisp = [.clear, .refresh] ∧
    expandPseudo .shutdown = [.clear, .refresh, .sleep] ∧
    expandPseudo (.direct x page bytes) = .setpos x page :: bytes.map Instr.data
end

