-- ==== Sys2Proof/Laws/State.lean ====
section
/-! SUPPORT. What each update of State does to each field, one lemma per field per update. -/

namespace Sys2Proof.Machine

@[simp] theorem State.setCell_gram (page column : Nat) (v : Byte) (s : State) :
    (s.setCell page column v).gram = s.gram.write (cellAddr page column) v := rfl
@[simp] theorem State.setCell_ready (page column : Nat) (v : Byte) (s : State) :
    (s.setCell page column v).ready = s.ready := rfl
@[simp] theorem State.setCell_req (page column : Nat) (v : Byte) (s : State) :
    (s.setCell page column v).req = s.req := rfl
@[simp] theorem State.setCell_seq (page column : Nat) (v : Byte) (s : State) :
    (s.setCell page column v).seq = s.seq := rfl
@[simp] theorem State.setCell_rsp (page column : Nat) (v : Byte) (s : State) :
    (s.setCell page column v).rsp = s.rsp := rfl
@[simp] theorem State.setCell_bus (page column : Nat) (v : Byte) (s : State) :
    (s.setCell page column v).bus = s.bus := rfl
@[simp] theorem State.setCell_trace (page column : Nat) (v : Byte) (s : State) :
    (s.setCell page column v).trace = s.trace := rfl
@[simp] theorem State.setCell_requests (page column : Nat) (v : Byte) (s : State) :
    (s.setCell page column v).requests = s.requests := rfl
@[simp] theorem State.setCell_busOk (page column : Nat) (v : Byte) (s : State) :
    (s.setCell page column v).busOk = s.busOk := rfl
@[simp] theorem State.setCell_busDone (page column : Nat) (v : Byte) (s : State) :
    (s.setCell page column v).busDone = s.busDone := rfl
@[simp] theorem State.setCell_rst (page column : Nat) (v : Byte) (s : State) :
    (s.setCell page column v).rst = s.rst := rfl
@[simp] theorem State.setCell_params (page column : Nat) (v : Byte) (s : State) :
    (s.setCell page column v).params = s.params := rfl
@[simp] theorem State.setCell_grain (page column : Nat) (v : Byte) (s : State) :
    (s.setCell page column v).grain = s.grain := rfl
@[simp] theorem State.setCell_settles (page column : Nat) (v : Byte) (s : State) :
    (s.setCell page column v).settles = s.settles := rfl
@[simp] theorem State.setCell_draws (page column : Nat) (v : Byte) (s : State) :
    (s.setCell page column v).draws = s.draws := rfl

@[simp] theorem State.setReady_gram (v : Bool) (s : State) :
    (s.setReady v).gram = s.gram := rfl
@[simp] theorem State.setReady_ready (v : Bool) (s : State) :
    (s.setReady v).ready = v := rfl
@[simp] theorem State.setReady_req (v : Bool) (s : State) :
    (s.setReady v).req = s.req := rfl
@[simp] theorem State.setReady_seq (v : Bool) (s : State) :
    (s.setReady v).seq = s.seq := rfl
@[simp] theorem State.setReady_rsp (v : Bool) (s : State) :
    (s.setReady v).rsp = s.rsp := rfl
@[simp] theorem State.setReady_bus (v : Bool) (s : State) :
    (s.setReady v).bus = s.bus := rfl
@[simp] theorem State.setReady_trace (v : Bool) (s : State) :
    (s.setReady v).trace = s.trace := rfl
@[simp] theorem State.setReady_requests (v : Bool) (s : State) :
    (s.setReady v).requests = s.requests := rfl
@[simp] theorem State.setReady_busOk (v : Bool) (s : State) :
    (s.setReady v).busOk = s.busOk := rfl
@[simp] theorem State.setReady_busDone (v : Bool) (s : State) :
    (s.setReady v).busDone = s.busDone := rfl
@[simp] theorem State.setReady_rst (v : Bool) (s : State) :
    (s.setReady v).rst = s.rst := rfl
@[simp] theorem State.setReady_params (v : Bool) (s : State) :
    (s.setReady v).params = s.params := rfl
@[simp] theorem State.setReady_grain (v : Bool) (s : State) :
    (s.setReady v).grain = s.grain := rfl
@[simp] theorem State.setReady_settles (v : Bool) (s : State) :
    (s.setReady v).settles = s.settles := rfl
@[simp] theorem State.setReady_draws (v : Bool) (s : State) :
    (s.setReady v).draws = s.draws := rfl

@[simp] theorem State.done_gram (v : Bool) (s : State) :
    (s.done v).gram = s.gram := rfl
@[simp] theorem State.done_ready (v : Bool) (s : State) :
    (s.done v).ready = s.ready := rfl
@[simp] theorem State.done_req (v : Bool) (s : State) :
    (s.done v).req = s.req := rfl
@[simp] theorem State.done_seq (v : Bool) (s : State) :
    (s.done v).seq = { s.seq with st := .idle } := rfl
@[simp] theorem State.done_rsp (v : Bool) (s : State) :
    (s.done v).rsp = { valid := true, bit := v } := rfl
@[simp] theorem State.done_bus (v : Bool) (s : State) :
    (s.done v).bus = s.bus := rfl
@[simp] theorem State.done_trace (v : Bool) (s : State) :
    (s.done v).trace = s.trace := rfl
@[simp] theorem State.done_requests (v : Bool) (s : State) :
    (s.done v).requests = s.requests := rfl
@[simp] theorem State.done_busOk (v : Bool) (s : State) :
    (s.done v).busOk = s.busOk := rfl
@[simp] theorem State.done_busDone (v : Bool) (s : State) :
    (s.done v).busDone = s.busDone := rfl
@[simp] theorem State.done_rst (v : Bool) (s : State) :
    (s.done v).rst = s.rst := rfl
@[simp] theorem State.done_params (v : Bool) (s : State) :
    (s.done v).params = s.params := rfl
@[simp] theorem State.done_grain (v : Bool) (s : State) :
    (s.done v).grain = s.grain := rfl
@[simp] theorem State.done_settles (v : Bool) (s : State) :
    (s.done v).settles = s.settles := rfl
@[simp] theorem State.done_draws (v : Bool) (s : State) :
    (s.done v).draws = s.draws := rfl

@[simp] theorem State.quiet_gram (s : State) :
    (s.quiet).gram = s.gram := rfl
@[simp] theorem State.quiet_ready (s : State) :
    (s.quiet).ready = s.ready := rfl
@[simp] theorem State.quiet_req (s : State) :
    (s.quiet).req = s.req := rfl
@[simp] theorem State.quiet_seq (s : State) :
    (s.quiet).seq = s.seq := rfl
@[simp] theorem State.quiet_rsp (s : State) :
    (s.quiet).rsp = { s.rsp with valid := false } := rfl
@[simp] theorem State.quiet_bus (s : State) :
    (s.quiet).bus = s.bus := rfl
@[simp] theorem State.quiet_trace (s : State) :
    (s.quiet).trace = s.trace := rfl
@[simp] theorem State.quiet_requests (s : State) :
    (s.quiet).requests = s.requests := rfl
@[simp] theorem State.quiet_busOk (s : State) :
    (s.quiet).busOk = s.busOk := rfl
@[simp] theorem State.quiet_busDone (s : State) :
    (s.quiet).busDone = s.busDone := rfl
@[simp] theorem State.quiet_rst (s : State) :
    (s.quiet).rst = s.rst := rfl
@[simp] theorem State.quiet_params (s : State) :
    (s.quiet).params = s.params := rfl
@[simp] theorem State.quiet_grain (s : State) :
    (s.quiet).grain = s.grain := rfl
@[simp] theorem State.quiet_settles (s : State) :
    (s.quiet).settles = s.settles := rfl
@[simp] theorem State.quiet_draws (s : State) :
    (s.quiet).draws = s.draws := rfl

@[simp] theorem State.present_gram (e : BusEvent) (s : State) :
    (s.present e).gram = s.gram := rfl
@[simp] theorem State.present_ready (e : BusEvent) (s : State) :
    (s.present e).ready = s.ready := rfl
@[simp] theorem State.present_req (e : BusEvent) (s : State) :
    (s.present e).req = s.req := rfl
@[simp] theorem State.present_seq (e : BusEvent) (s : State) :
    (s.present e).seq = s.seq := rfl
@[simp] theorem State.present_rsp (e : BusEvent) (s : State) :
    (s.present e).rsp = { s.rsp with valid := false } := rfl
@[simp] theorem State.present_bus (e : BusEvent) (s : State) :
    (s.present e).bus = { valid := true, rs := e.tag.code, byte := e.byte } := rfl
@[simp] theorem State.present_trace (e : BusEvent) (s : State) :
    (s.present e).trace = s.trace := rfl
@[simp] theorem State.present_requests (e : BusEvent) (s : State) :
    (s.present e).requests = s.requests := rfl
@[simp] theorem State.present_busOk (e : BusEvent) (s : State) :
    (s.present e).busOk = s.busOk := rfl
@[simp] theorem State.present_busDone (e : BusEvent) (s : State) :
    (s.present e).busDone = s.busDone := rfl
@[simp] theorem State.present_rst (e : BusEvent) (s : State) :
    (s.present e).rst = s.rst := rfl
@[simp] theorem State.present_params (e : BusEvent) (s : State) :
    (s.present e).params = s.params := rfl
@[simp] theorem State.present_grain (e : BusEvent) (s : State) :
    (s.present e).grain = s.grain := rfl
@[simp] theorem State.present_settles (e : BusEvent) (s : State) :
    (s.present e).settles = s.settles := rfl
@[simp] theorem State.present_draws (e : BusEvent) (s : State) :
    (s.present e).draws = s.draws := rfl

@[simp] theorem State.deliver_gram (e : BusEvent) (s : State) :
    (s.deliver e).gram = s.gram := rfl
@[simp] theorem State.deliver_ready (e : BusEvent) (s : State) :
    (s.deliver e).ready = s.ready := rfl
@[simp] theorem State.deliver_req (e : BusEvent) (s : State) :
    (s.deliver e).req = s.req := rfl
@[simp] theorem State.deliver_seq (e : BusEvent) (s : State) :
    (s.deliver e).seq = s.seq := rfl
@[simp] theorem State.deliver_rsp (e : BusEvent) (s : State) :
    (s.deliver e).rsp = { s.rsp with valid := false } := rfl
@[simp] theorem State.deliver_bus (e : BusEvent) (s : State) :
    (s.deliver e).bus = { valid := false, rs := e.tag.code, byte := e.byte } := rfl
@[simp] theorem State.deliver_trace (e : BusEvent) (s : State) :
    (s.deliver e).trace = if s.busOk then s.trace ++ [e] else s.trace := rfl
@[simp] theorem State.deliver_requests (e : BusEvent) (s : State) :
    (s.deliver e).requests = s.requests := rfl
@[simp] theorem State.deliver_busOk (e : BusEvent) (s : State) :
    (s.deliver e).busOk = s.busOk := rfl
@[simp] theorem State.deliver_busDone (e : BusEvent) (s : State) :
    (s.deliver e).busDone = s.busDone := rfl
@[simp] theorem State.deliver_rst (e : BusEvent) (s : State) :
    (s.deliver e).rst = s.rst := rfl
@[simp] theorem State.deliver_params (e : BusEvent) (s : State) :
    (s.deliver e).params = s.params := rfl
@[simp] theorem State.deliver_grain (e : BusEvent) (s : State) :
    (s.deliver e).grain = s.grain := rfl
@[simp] theorem State.deliver_settles (e : BusEvent) (s : State) :
    (s.deliver e).settles = s.settles + 1 := rfl
@[simp] theorem State.deliver_draws (e : BusEvent) (s : State) :
    (s.deliver e).draws = s.draws := rfl

@[simp] theorem State.deliverAll_gram (es : List BusEvent) (s : State) :
    (s.deliverAll es).gram = s.gram := rfl
@[simp] theorem State.deliverAll_ready (es : List BusEvent) (s : State) :
    (s.deliverAll es).ready = s.ready := rfl
@[simp] theorem State.deliverAll_req (es : List BusEvent) (s : State) :
    (s.deliverAll es).req = s.req := rfl
@[simp] theorem State.deliverAll_seq (es : List BusEvent) (s : State) :
    (s.deliverAll es).seq = s.seq := rfl
@[simp] theorem State.deliverAll_rsp (es : List BusEvent) (s : State) :
    (s.deliverAll es).rsp = { s.rsp with valid := if es.isEmpty then s.rsp.valid else false } := rfl
@[simp] theorem State.deliverAll_bus (es : List BusEvent) (s : State) :
    (s.deliverAll es).bus = s.bus.after es := rfl
@[simp] theorem State.deliverAll_trace (es : List BusEvent) (s : State) :
    (s.deliverAll es).trace = if s.busOk then s.trace ++ es else s.trace := rfl
@[simp] theorem State.deliverAll_requests (es : List BusEvent) (s : State) :
    (s.deliverAll es).requests = s.requests := rfl
@[simp] theorem State.deliverAll_busOk (es : List BusEvent) (s : State) :
    (s.deliverAll es).busOk = s.busOk := rfl
@[simp] theorem State.deliverAll_busDone (es : List BusEvent) (s : State) :
    (s.deliverAll es).busDone = s.busDone := rfl
@[simp] theorem State.deliverAll_rst (es : List BusEvent) (s : State) :
    (s.deliverAll es).rst = s.rst := rfl
@[simp] theorem State.deliverAll_params (es : List BusEvent) (s : State) :
    (s.deliverAll es).params = s.params := rfl
@[simp] theorem State.deliverAll_grain (es : List BusEvent) (s : State) :
    (s.deliverAll es).grain = s.grain := rfl
@[simp] theorem State.deliverAll_settles (es : List BusEvent) (s : State) :
    (s.deliverAll es).settles = s.settles + es.length := rfl
@[simp] theorem State.deliverAll_draws (es : List BusEvent) (s : State) :
    (s.deliverAll es).draws = s.draws := rfl

@[simp] theorem State.latch_gram (w : Word) (rest : List Word) (s : State) :
    (s.latch w rest).gram = s.gram := rfl
@[simp] theorem State.latch_ready (w : Word) (rest : List Word) (s : State) :
    (s.latch w rest).ready = s.ready := rfl
@[simp] theorem State.latch_req (w : Word) (rest : List Word) (s : State) :
    (s.latch w rest).req = w := rfl
@[simp] theorem State.latch_seq (w : Word) (rest : List Word) (s : State) :
    (s.latch w rest).seq = s.seq := rfl
@[simp] theorem State.latch_rsp (w : Word) (rest : List Word) (s : State) :
    (s.latch w rest).rsp = { s.rsp with valid := false } := rfl
@[simp] theorem State.latch_bus (w : Word) (rest : List Word) (s : State) :
    (s.latch w rest).bus = s.bus := rfl
@[simp] theorem State.latch_trace (w : Word) (rest : List Word) (s : State) :
    (s.latch w rest).trace = s.trace := rfl
@[simp] theorem State.latch_requests (w : Word) (rest : List Word) (s : State) :
    (s.latch w rest).requests = rest := rfl
@[simp] theorem State.latch_busOk (w : Word) (rest : List Word) (s : State) :
    (s.latch w rest).busOk = s.busOk := rfl
@[simp] theorem State.latch_busDone (w : Word) (rest : List Word) (s : State) :
    (s.latch w rest).busDone = s.busDone := rfl
@[simp] theorem State.latch_rst (w : Word) (rest : List Word) (s : State) :
    (s.latch w rest).rst = s.rst := rfl
@[simp] theorem State.latch_params (w : Word) (rest : List Word) (s : State) :
    (s.latch w rest).params = s.params := rfl
@[simp] theorem State.latch_grain (w : Word) (rest : List Word) (s : State) :
    (s.latch w rest).grain = s.grain := rfl
@[simp] theorem State.latch_settles (w : Word) (rest : List Word) (s : State) :
    (s.latch w rest).settles = s.settles := rfl
@[simp] theorem State.latch_draws (w : Word) (rest : List Word) (s : State) :
    (s.latch w rest).draws = s.draws := rfl

/-- startList writes `SEQ` only. -/
@[simp] theorem startList_eq (l : SeqList) (s : State) :
    startList l s = { s with seq := { s.seq with st := .list, list := l, i := 0#5 } } := rfl

/-- startPos writes `SEQ` only. -/
@[simp] theorem startPos_eq (x page : Byte) (s : State) :
    startPos x page s = { s with seq := { s.seq with st := .pos, pg := page, x := x, i := 0#5, strm := false } } := rfl

/-- startStream writes `SEQ` only. -/
@[simp] theorem startStream_eq (page first last : Byte) (full : Bool) (s : State) :
    startStream page first last full s = { s with seq := { s.seq with st := .pos, pg := page, x := first, i := 0#5, strm := true, full := full, col := first, last := last } } := rfl

@[simp] theorem State.busy_eq (s : State) : s.busy = (s.seq.st != .idle) := rfl

@[simp] theorem State.reset_gram : State.reset.gram = [] := rfl
@[simp] theorem State.reset_ready : State.reset.ready = false := rfl
@[simp] theorem State.reset_seq : State.reset.seq = Seq.reset := rfl
@[simp] theorem State.reset_rsp : State.reset.rsp = { valid := false, bit := false } := rfl
@[simp] theorem State.reset_bus : State.reset.bus = { valid := false, rs := 0, byte := 0 } := rfl
@[simp] theorem State.reset_trace : State.reset.trace = [] := rfl
@[simp] theorem State.reset_requests : State.reset.requests = [] := rfl
@[simp] theorem State.reset_rst : State.reset.rst = false := rfl

end Sys2Proof.Machine
end

