-- ==== Sys2Proof/Laws/Memory.lean ====
section
/-! SUPPORT. The laws of GRAM: read after write, the canonical form and its uniqueness. -/

namespace Sys2Proof.Machine

@[simp] theorem Memory.read_nil (a : Nat) : Memory.read [] a = 0#8 := rfl

theorem Memory.read_cons (b : Nat) (v : Byte) (m : Memory) (a : Nat) :
    Memory.read ((b, v) :: m) a = if a = b then v else Memory.read m a := rfl

theorem Memory.wfFrom_cons {lo a : Nat} {v : Byte} {m : Memory} :
    Memory.wfFrom lo ((a, v) :: m) = true ↔ lo ≤ a ∧ a < 1024 ∧ v ≠ 0#8 ∧ Memory.wfFrom (a + 1) m = true := by
  simp [Memory.wfFrom, and_assoc]

/-- Below the first address the canonical form admits, every cell reads as after reset. -/
theorem Memory.read_below {m : Memory} : ∀ {lo a : Nat}, Memory.wfFrom lo m = true → a < lo → m.read a = 0#8 := by
  induction m with
  | nil => intros; rfl
  | cons c m ih =>
    obtain ⟨b, v⟩ := c
    intro lo a h ha
    obtain ⟨hb, -, -, hm⟩ := Memory.wfFrom_cons.1 h
    rw [Memory.read_cons, if_neg (by omega)]
    exact ih hm (by omega)

theorem Memory.wfFrom_mono {m : Memory} {lo lo' : Nat} (h : Memory.wfFrom lo m = true) (hl : lo' ≤ lo) :
    Memory.wfFrom lo' m = true := by
  cases m with
  | nil => rfl
  | cons c m =>
    obtain ⟨b, v⟩ := c
    obtain ⟨hb, h1, h2, h3⟩ := Memory.wfFrom_cons.1 h
    exact Memory.wfFrom_cons.2 ⟨by omega, h1, h2, h3⟩

/-- A write keeps the canonical form. -/
theorem Memory.wfFrom_write {m : Memory} {v : Byte} :
    ∀ {lo a : Nat}, Memory.wfFrom lo m = true → lo ≤ a → a < 1024 → Memory.wfFrom lo (m.write a v) = true := by
  induction m with
  | nil =>
    intro lo a _ hl ha
    by_cases hv : v = 0#8 <;> simp [Memory.write, Memory.wfFrom, hv, hl, ha]
  | cons c m ih =>
    obtain ⟨b, u⟩ := c
    intro lo a h hl ha
    obtain ⟨hb, hb2, hu, hm⟩ := Memory.wfFrom_cons.1 h
    unfold Memory.write
    split
    · split
      · exact h
      · rename_i h1 h2
        exact Memory.wfFrom_cons.2 ⟨hl, ha, h2, Memory.wfFrom_cons.2 ⟨by omega, hb2, hu, hm⟩⟩
    · split
      · rename_i h1 h2
        split
        · exact Memory.wfFrom_mono hm (by omega)
        · rename_i h3
          exact Memory.wfFrom_cons.2 ⟨hl, ha, h3, by rw [h2]; exact hm⟩
      · exact Memory.wfFrom_cons.2 ⟨hb, hb2, hu, ih hm (by omega) ha⟩

/-- A write of a cell of GRAM keeps the canonical form. -/
theorem Memory.wf_write {m : Memory} {a : Nat} {v : Byte} (h : m.wf = true) (ha : a < 1024) :
    (m.write a v).wf = true :=
  Memory.wfFrom_write h (Nat.zero_le a) ha

theorem Memory.read_write_from {m : Memory} {v : Byte} :
    ∀ {lo a a' : Nat}, Memory.wfFrom lo m = true → (m.write a v).read a' = if a' = a then v else m.read a' := by
  induction m with
  | nil =>
    intro lo a a' _
    by_cases hv : v = 0#8 <;> simp [Memory.write, Memory.read_cons, hv]
  | cons c m ih =>
    obtain ⟨b, u⟩ := c
    intro lo a a' h
    obtain ⟨hb, hb2, hu, hm⟩ := Memory.wfFrom_cons.1 h
    unfold Memory.write
    split
    · split
      · rename_i h1 h2
        split
        · rename_i h3
          rw [h2, h3, Memory.read_cons, if_neg (by omega), Memory.read_below hm (by omega)]
        · rfl
      · rw [Memory.read_cons]
    · split
      · rename_i h1 h2
        split
        · rename_i h3
          rw [Memory.read_cons]
          split
          · rename_i h4
            rw [h3, Memory.read_below hm (by omega)]
          · rw [if_neg (by omega)]
        · rw [Memory.read_cons, Memory.read_cons]
          split
          · rfl
          · rw [if_neg (by omega)]
      · rename_i h1 h2
        rw [Memory.read_cons, Memory.read_cons, ih hm]
        split
        · rw [if_neg (by omega)]
        · rfl

/-- A cell reads as last written, and a write leaves every other cell alone (20_memory.md R39). -/
theorem Memory.read_write {m : Memory} {a a' : Nat} {v : Byte} (h : m.wf = true) :
    (m.write a v).read a' = if a' = a then v else m.read a' :=
  Memory.read_write_from h

/-- Two canonical memories with the same contents are the same list. -/
theorem Memory.ext_from {m : Memory} : ∀ {m' : Memory} {lo : Nat}, Memory.wfFrom lo m = true →
    Memory.wfFrom lo m' = true → (∀ a, m.read a = m'.read a) → m = m' := by
  induction m with
  | nil =>
    intro m' lo _ h' hr
    cases m' with
    | nil => rfl
    | cons c m' =>
      obtain ⟨b, v⟩ := c
      obtain ⟨-, -, hv, -⟩ := Memory.wfFrom_cons.1 h'
      exact absurd (by simpa [Memory.read_cons] using (hr b).symm) hv
  | cons c m ih =>
    obtain ⟨b, v⟩ := c
    intro m' lo h h' hr
    obtain ⟨hb, -, hv, hm⟩ := Memory.wfFrom_cons.1 h
    cases m' with
    | nil => exact absurd (by simpa [Memory.read_cons] using hr b) hv
    | cons c' m' =>
      obtain ⟨b', v'⟩ := c'
      obtain ⟨hb', -, hv', hm'⟩ := Memory.wfFrom_cons.1 h'
      have e1 := hr b
      have e2 := hr b'
      simp only [Memory.read_cons, if_true] at e1 e2
      have hbb : b = b' := by
        rcases Nat.lt_trichotomy b b' with hl | hl | hl
        · rw [if_neg (by omega), Memory.read_below hm' (by omega)] at e1; exact absurd e1 hv
        · exact hl
        · rw [if_neg (by omega), Memory.read_below hm (by omega)] at e2; exact absurd e2.symm hv'
      subst hbb
      simp only [if_true] at e1
      subst e1
      rw [ih hm hm' fun a => ?_]
      by_cases ha : a = b
      · rw [ha, Memory.read_below hm (by omega), Memory.read_below hm' (by omega)]
      · simpa [Memory.read_cons, ha] using hr a

theorem Memory.ext_of_wf {m m' : Memory} (h : m.wf = true) (h' : m'.wf = true) (hr : ∀ a, m.read a = m'.read a) :
    m = m' :=
  Memory.ext_from h h' hr

/-- GRAM after reset is canonical. -/
theorem State.reset_gram_wf : State.reset.gram.wf = true := rfl

/-- The cell of a page and a column lies inside GRAM (20_memory.md R31). -/
theorem cellAddr_lt {page column : Nat} (hp : page < 8) (hc : column < 128) : cellAddr page column < 1024 := by
  unfold cellAddr; omega

/-- Two cells share a linear address only if they are the same cell. -/
theorem cellAddr_inj {p c p' c' : Nat} (hc : c < 128) (hc' : c' < 128) :
    cellAddr p c = cellAddr p' c' ↔ p = p' ∧ c = c' := by
  unfold cellAddr; omega

/-- Reading a cell after writing one. -/
theorem State.cell_setCell {s : State} {p c p' c' : Nat} {v : Byte} (h : s.gram.wf = true) (hc : c < 128)
    (hc' : c' < 128) : (s.setCell p c v).cell p' c' = if p' = p ∧ c' = c then v else s.cell p' c' := by
  simp only [State.cell, State.setCell, Memory.read_write h, cellAddr_inj hc' hc]

end Sys2Proof.Machine
end

