-- ==== Sys2Proof/Laws/Ops.lean ====
section
/-! SUPPORT. One lemma for everything a shared operation can do, and the small laws of each. -/

namespace Sys2Proof.Machine

/-! ## andThen, whenIdle -/

@[simp] theorem andThen_next (s : State) (f : State → Result) : andThen (.next s) f = f s := rfl
@[simp] theorem andThen_fault (e : Fault) (f : State → Result) : andThen (.fault e) f = .fault e := rfl
@[simp] theorem andThen_refused (e : Refusal) (f : State → Result) : andThen (.refused e) f = .refused e := rfl

/-- `andThen` answers a next state only through a next state of its first part. -/
theorem andThen_eq_next {r : Result} {f : State → Result} {t : State} :
    andThen r f = .next t ↔ ∃ s, r = .next s ∧ f s = .next t := by
  cases r <;> simp

theorem whenIdle_idle {s : State} {f : State → Result} (h : s.seq.st = .idle) : whenIdle s f = f s := by
  simp [whenIdle, h]

theorem whenIdle_busy {s : State} {f : State → Result} (h : s.seq.st ≠ .idle) :
    whenIdle s f = .refused .requestWhileBusy := by
  simp [whenIdle, h]

/-- A guarded operation answers a next state only from an idle one. -/
theorem whenIdle_eq_next {s t : State} {f : State → Result} :
    whenIdle s f = .next t ↔ s.seq.st = .idle ∧ f s = .next t := by
  by_cases h : s.seq.st = .idle <;> simp [whenIdle, h]

/-- An idle sequencer set idle is as it was. -/
theorem Seq.set_idle {q : Seq} (h : q.st = .idle) : { q with st := .idle } = q := by
  cases q; cases h; rfl

/-! ## Bus writes -/

/-- Writing a list of events is writing its first, then the rest (20_memory.md R37). -/
theorem State.deliverAll_cons (e : BusEvent) (es : List BusEvent) (s : State) :
    s.deliverAll (e :: es) = (s.deliver e).deliverAll es := by
  unfold State.deliverAll State.deliver
  cases es with
  | nil => by_cases h : s.busOk = true <;> simp [h, BusPort.after]
  | cons e' es =>
    by_cases h : s.busOk = true <;> simp [h, BusPort.after, List.getLast?_cons, Nat.add_assoc, Nat.add_comm 1]

@[simp] theorem State.deliverAll_nil (s : State) : s.deliverAll [] = s := by
  by_cases h : s.busOk = true <;> simp [State.deliverAll, BusPort.after]

theorem State.deliverAll_one (e : BusEvent) (s : State) : s.deliverAll [e] = s.deliver e := by
  rw [State.deliverAll_cons, State.deliverAll_nil]

/-- Bus writes answer a next state exactly when the transport answers, and it is `deliverAll`. -/
theorem busWrites_eq_next {es : List BusEvent} {s t : State} :
    busWrites es s = .next t ↔ s.busDone = true ∧ t = s.deliverAll es := by
  unfold busWrites
  split <;> rename_i h <;> simp [h, eq_comm]

theorem busWrites_done {es : List BusEvent} {s : State} (h : s.busDone = true) :
    busWrites es s = .next (s.deliverAll es) := by
  simp [busWrites, h]

/-- An emitting operation answers a next state exactly when the transport answers. -/
theorem emitAndFinish_eq_next {es : List BusEvent} {s t : State} :
    emitAndFinish es s = .next t ↔ s.busDone = true ∧ t = (s.deliverAll es).done false := by
  unfold emitAndFinish
  rw [andThen_eq_next]
  constructor
  · rintro ⟨u, h, ht⟩
    obtain ⟨hd, rfl⟩ := busWrites_eq_next.1 h
    injection ht with ht
    exact ⟨hd, ht.symm⟩
  · rintro ⟨hd, rfl⟩
    exact ⟨_, busWrites_done hd, rfl⟩

/-! ## Streams -/

@[simp] theorem streamEvents_length (m : Memory) (page first n : Nat) : (streamEvents m page first n).length = n := by
  simp [streamEvents]

@[simp] theorem triplet_length (x page : Byte) : (triplet x page).length = 3 := rfl

@[simp] theorem pageEvents_length (m : Memory) (page : Nat) : (pageEvents m page).length = 131 := by
  simp [pageEvents]

/-- A full refresh is 1048 bus writes (43_refresh.md R100). -/
theorem refreshEvents_length (m : Memory) : (refreshEvents m).length = 1048 := by
  simp [refreshEvents, List.range_succ]

theorem streamEvents_succ (m : Memory) (page first n : Nat) :
    streamEvents m page first (n + 1) =
      dataEvent (m.read (cellAddr page first)) :: streamEvents m page (first + 1) n := by
  simp [streamEvents, List.range'_succ]

end Sys2Proof.Machine
end

