-- ==== Sys2Proof/Laws/Decode.lean ====
section
/-! SUPPORT. The laws of the decoder: the fields of an assembled request word, and what a decoded bus word does. -/

namespace Sys2Proof

theorem fields_mkRequest (op : BitVec 4) (c b a : Byte) :
    opField (mkRequest op c b a) = op ∧ zField (mkRequest op c b a) = 0#4 ∧ cField (mkRequest op c b a) = c ∧
      bField (mkRequest op c b a) = b ∧ aField (mkRequest op c b a) = a := by
  refine ⟨?_, ?_, ?_, ?_, ?_⟩ <;>
  · simp only [opField, zField, cField, bField, aField, mkRequest]
    apply BitVec.eq_of_getLsbD_eq
    intro i hi
    simp only [BitVec.getLsbD_extractLsb', BitVec.getLsbD_append]
    interval_cases i <;> simp

@[simp] theorem opField_mkRequest (op : BitVec 4) (c b a : Byte) : opField (mkRequest op c b a) = op :=
  (fields_mkRequest op c b a).1
@[simp] theorem zField_mkRequest (op : BitVec 4) (c b a : Byte) : zField (mkRequest op c b a) = 0#4 :=
  (fields_mkRequest op c b a).2.1
@[simp] theorem cField_mkRequest (op : BitVec 4) (c b a : Byte) : cField (mkRequest op c b a) = c :=
  (fields_mkRequest op c b a).2.2.1
@[simp] theorem bField_mkRequest (op : BitVec 4) (c b a : Byte) : bField (mkRequest op c b a) = b :=
  (fields_mkRequest op c b a).2.2.2.1
@[simp] theorem aField_mkRequest (op : BitVec 4) (c b a : Byte) : aField (mkRequest op c b a) = a :=
  (fields_mkRequest op c b a).2.2.2.2

/-- The colour codes are inverse to each other (30_encoding.md R54). -/
@[simp] theorem Color.ofBits_toBits (c : Color) : Color.ofBits c.toBits = c := by
  cases c <;> rfl

/-- A request word decodes to a request operation only. -/
theorem decodeRequest_opcode {w : Word} {i : Instr} (h : decodeRequest w = .ok i) :
    i.opcode = some (opField w) := by
  unfold decodeRequest at h
  split at h
  · cases h
  · split at h <;> rename_i hop <;> try (split at h)
    all_goals first
      | (cases h; done)
      | (injection h with h
         subst h
         simp only [Instr.opcode, Option.some.injEq]
         exact (BitVec.eq_of_toNat_eq (by simpa using hop)).symm)

/-- The bus event of a bus word whose register-select value is a tag's. -/
theorem busEvent_word_inj {e e' : BusEvent} (h : e.word = e'.word) : e = e' := by
  obtain ⟨t, b⟩ := e
  obtain ⟨t', b'⟩ := e'
  have hb : b = b' := by
    have := congrArg (fun w : BitVec 16 => w.extractLsb' 0 8) h
    simpa only [BusEvent.word, BitVec.extractLsb'_append_eq_right] using this
  have ht : t.code = t'.code := by
    have := congrArg (fun w : BitVec 16 => w.extractLsb' 8 8) h
    simpa only [BusEvent.word, BitVec.extractLsb'_append_eq_left] using this
  subst hb
  cases t <;> cases t' <;> first | rfl | (exact absurd ht (by decide))

end Sys2Proof
end

