-- ==== Sys2Proof/Laws/Sequencer.lean ====
section
/-! SUPPORT. What the sequencer's operations can do: which fields `advance` writes, the answers of a bus-write step,
and what the bus row fetched at a position writes. -/

namespace Sys2Proof.Machine

/-! ## advance writes READY, SEQ and the response only -/

/-- Everything `advance` leaves alone. -/
theorem advance_frame (s : State) :
    (advance s).gram = s.gram ∧ (advance s).req = s.req ∧ (advance s).bus = s.bus ∧ (advance s).trace = s.trace ∧
      (advance s).requests = s.requests ∧ (advance s).busOk = s.busOk ∧ (advance s).busDone = s.busDone ∧
      (advance s).rst = s.rst ∧ (advance s).params = s.params ∧ (advance s).grain = s.grain ∧
      (advance s).settles = s.settles ∧ (advance s).draws = s.draws := by
  unfold advance
  cases s.seq.st <;> simp only <;> (repeat' split) <;> simp

@[simp] theorem advance_gram (s : State) : (advance s).gram = s.gram := (advance_frame s).1
@[simp] theorem advance_req (s : State) : (advance s).req = s.req := (advance_frame s).2.1
@[simp] theorem advance_bus (s : State) : (advance s).bus = s.bus := (advance_frame s).2.2.1
@[simp] theorem advance_trace (s : State) : (advance s).trace = s.trace := (advance_frame s).2.2.2.1
@[simp] theorem advance_requests (s : State) : (advance s).requests = s.requests := (advance_frame s).2.2.2.2.1
@[simp] theorem advance_busOk (s : State) : (advance s).busOk = s.busOk := (advance_frame s).2.2.2.2.2.1
@[simp] theorem advance_busDone (s : State) : (advance s).busDone = s.busDone := (advance_frame s).2.2.2.2.2.2.1
@[simp] theorem advance_rst (s : State) : (advance s).rst = s.rst := (advance_frame s).2.2.2.2.2.2.2.1
@[simp] theorem advance_params (s : State) : (advance s).params = s.params := (advance_frame s).2.2.2.2.2.2.2.2.1
@[simp] theorem advance_grain (s : State) : (advance s).grain = s.grain := (advance_frame s).2.2.2.2.2.2.2.2.2.1
@[simp] theorem advance_settles (s : State) : (advance s).settles = s.settles :=
  (advance_frame s).2.2.2.2.2.2.2.2.2.2.1
@[simp] theorem advance_draws (s : State) : (advance s).draws = s.draws := (advance_frame s).2.2.2.2.2.2.2.2.2.2.2

@[simp] theorem advanceBy_zero (s : State) : advanceBy 0 s = s := rfl
@[simp] theorem advanceBy_succ (n : Nat) (s : State) : advanceBy (n + 1) s = advanceBy n (advance s) := rfl

/-- The event of a position depends on GRAM, the latch, `SEQ` and the parameters only. -/
theorem seqEvent_congr {s t : State} (hg : t.gram = s.gram) (hr : t.req = s.req) (hq : t.seq = s.seq)
    (hp : t.params = s.params) : seqEvent t = seqEvent s := by
  simp only [seqEvent, State.cellChecked, State.cell, hg, hr, hq, hp]

@[simp] theorem seqEvent_deliver (e : BusEvent) (s : State) : seqEvent (s.deliver e) = seqEvent s :=
  seqEvent_congr rfl rfl rfl rfl

@[simp] theorem seqEvent_present (e : BusEvent) (s : State) : seqEvent (s.present e) = seqEvent s :=
  seqEvent_congr rfl rfl rfl rfl

/-! ## The bus-write step -/

/-- A bus-write step answers a next state exactly when its position has an event: delivered and advanced past, or
presented and waited for. -/
theorem busStep_eq_next {s t : State} :
    busStep s = .next t ↔ ∃ e, seqEvent s = .ok e ∧
      ((s.busDone = true ∧ t = advance (s.deliver e)) ∨ (s.busDone = false ∧ t = s.present e)) := by
  unfold busStep
  cases h : seqEvent s with
  | error e => simp
  | ok e => cases hd : s.busDone <;> simp [eq_comm]

/-- A bus-write step never refuses. -/
theorem busStep_not_refused {s : State} {r : Refusal} : busStep s ≠ .refused r := by
  unfold busStep
  cases seqEvent s with
  | error e => simp
  | ok e => dsimp only; split <;> simp

/-! ## Reset -/

/-- What a cut-short bus write can have delivered: nothing, or the position's event over a valid transport. -/
theorem cutShort_cases (s : State) :
    cutShort s = [] ∨ (s.busOk = true ∧ ∃ e, seqEvent s = .ok e ∧ cutShort s = [e]) := by
  unfold cutShort
  cases seqEvent s with
  | error e => exact .inl rfl
  | ok e => by_cases h : s.busOk = true <;> cases Config.cutShortDelivered s.draws <;> simp [h]

@[simp] theorem applyReset_gram (s : State) : (applyReset s).gram = [] := rfl
@[simp] theorem applyReset_ready (s : State) : (applyReset s).ready = false := rfl
@[simp] theorem applyReset_seq (s : State) : (applyReset s).seq = Seq.reset := rfl
@[simp] theorem applyReset_req (s : State) : (applyReset s).req = State.reset.req := rfl
@[simp] theorem applyReset_rsp (s : State) : (applyReset s).rsp = State.reset.rsp := rfl
@[simp] theorem applyReset_bus (s : State) : (applyReset s).bus = State.reset.bus := rfl
@[simp] theorem applyReset_requests (s : State) : (applyReset s).requests = s.requests := rfl
@[simp] theorem applyReset_busOk (s : State) : (applyReset s).busOk = s.busOk := rfl
@[simp] theorem applyReset_busDone (s : State) : (applyReset s).busDone = s.busDone := rfl
@[simp] theorem applyReset_rst (s : State) : (applyReset s).rst = false := rfl
@[simp] theorem applyReset_params (s : State) : (applyReset s).params = s.params := rfl
@[simp] theorem applyReset_grain (s : State) : (applyReset s).grain = s.grain := rfl
@[simp] theorem applyReset_settles (s : State) : (applyReset s).settles = s.settles := rfl

/-- Reset of an idle DCB starts TRACE empty (10_state.md R20 a, R21). -/
theorem applyReset_trace_idle {s : State} (h : s.seq.st = .idle) : (applyReset s).trace = [] := by
  simp [applyReset, h]

/-- Reset in the middle of an operation keeps TRACE (44_sequencer.md R122). -/
theorem applyReset_trace_busy {s : State} (h : s.seq.st ≠ .idle) : (applyReset s).trace = s.trace ++ cutShort s := by
  simp [applyReset, h]

/-! ## What a bus row writes -/

/-- The events of a bus row; none for a request operation, whose meaning is not bus writes alone. -/
def rowEvents (p : Params) : Instr → List BusEvent
  | .busPagesel page => [cmdEvent (0b10110#5 ++ page)]
  | .busColhi h => [cmdEvent (0b0001#4 ++ h)]
  | .busCollo l => [cmdEvent (0b0000#4 ++ l)]
  | .busData b => [dataEvent b]
  | .busDispoff => [cmdEvent 0xAE#8]
  | .busInitCollo0 => [cmdEvent 0x00#8]
  | .busInitColhi0 => [cmdEvent 0x10#8]
  | .busStartline0 => [cmdEvent 0x40#8]
  | .busInitPage0 => [cmdEvent 0xB0#8]
  | .busContrast => [cmdEvent 0x81#8, cmdEvent 0xFF#8]
  | .busSegremap => [cmdEvent 0xA1#8]
  | .busA6 => [cmdEvent 0xA6#8]
  | .busMuxratio => [cmdEvent 0xA8#8, cmdEvent 0x3F#8]
  | .busComscan => [cmdEvent 0xC8#8]
  | .busDispoffset => [cmdEvent 0xD3#8, cmdEvent 0x00#8]
  | .busOscdiv => [cmdEvent 0xD5#8, cmdEvent 0x80#8]
  | .busD8 => [cmdEvent 0xD8#8, cmdEvent 0x05#8]
  | .busPrecharge => [cmdEvent 0xD9#8, cmdEvent 0xF1#8]
  | .busCompins => [cmdEvent 0xDA#8, cmdEvent 0x12#8]
  | .busVcomh => [cmdEvent 0xDB#8, cmdEvent 0x30#8]
  | .busCpenable => [cmdEvent 0x8D#8, cmdEvent 0x14#8]
  | .busDispon => [cmdEvent 0xAF#8]
  | .busCpdisable => [cmdEvent 0x8D#8, cmdEvent p.cpDisableArg]
  | .init | .setpos _ _ | .data _ | .wake | .sleep | .refresh | .refrange _ _ _ | .pixset _ _ _ | .clear
  | .pixget _ _ => []

/-- The meaning of a bus row is its bus writes. -/
theorem exec_busRow {i : Instr} (h : i.opcode = none) (s : State) : exec i s = busWrites (rowEvents s.params i) s := by
  cases i <;> first | rfl | (simp [Instr.opcode] at h)

/-- A bus word that decodes is the word of the one event its row writes. -/
theorem decodeBus_row {e : BusEvent} {i : Instr} (h : decodeBus e.word = .ok i) :
    i.opcode = none ∧ ∀ p, rowEvents p i = [e] := by
  have key : ∀ (e' : BusEvent), e'.word = e.word → (∀ p, rowEvents p i = [e']) → ∀ p, rowEvents p i = [e] := by
    intro e' he hp p
    rw [← busEvent_word_inj he, hp]
  obtain ⟨t, b⟩ := e
  unfold decodeBus at h
  split at h
  · rename_i j hj
    injection h with h
    subst h
    simp only [fixedBusRows, List.lookup_cons] at hj
    repeat' split at hj
    all_goals first
      | (rename_i hw
         injection hj with hj
         subst hj
         refine ⟨rfl, key (cmdEvent _) ?_ fun _ => rfl⟩
         rw [beq_iff_eq.1 hw]; rfl)
      | (simp at hj)
  · simp only [BusEvent.word, BitVec.extractLsb'_append_eq_left, BitVec.extractLsb'_append_eq_right] at h
    cases t with
    | data =>
      simp only [Tag.code, if_true] at h
      injection h with h
      subst h
      exact ⟨rfl, fun _ => rfl⟩
    | cmd =>
      have h0 : ¬(Tag.cmd.code = Config.rsData) := by decide
      have h1 : ¬(Tag.cmd.code ≠ Config.rsCmd) := by decide
      rw [if_neg h0, if_neg h1] at h
      have split5 : b = b.extractLsb' 3 5 ++ b.extractLsb' 0 3 := by
        apply BitVec.eq_of_getLsbD_eq; intro i hi
        simp only [BitVec.getLsbD_append, BitVec.getLsbD_extractLsb']
        interval_cases i <;> simp
      have split4 : b = b.extractLsb' 4 4 ++ b.extractLsb' 0 4 := by
        apply BitVec.eq_of_getLsbD_eq; intro i hi
        simp only [BitVec.getLsbD_append, BitVec.getLsbD_extractLsb']
        interval_cases i <;> simp
      split at h
      · rename_i hx
        injection h with h
        subst h
        refine ⟨rfl, fun _ => ?_⟩
        simp only [rowEvents, cmdEvent, ← hx]
        rw [← split5]
      · split at h
        · rename_i hx
          injection h with h
          subst h
          refine ⟨rfl, fun _ => ?_⟩
          simp only [rowEvents, cmdEvent, ← hx]
          rw [← split4]
        · split at h
          · rename_i hx
            injection h with h
            subst h
            refine ⟨rfl, fun _ => ?_⟩
            simp only [rowEvents, cmdEvent, ← hx]
            rw [← split4]
          · cases h

/-- A pair of command bytes that decodes is the pair its row writes; no parameter is read, but by BUS.CPDISABLE. -/
theorem decodeBusPair_row {a b : Byte} {i : Instr}
    (h : decodeBusPair ((cmdEvent a).word ++ (cmdEvent b).word) = .ok i) :
    i.opcode = none ∧ (i = .busCpdisable → a = 0x8D#8 ∧ b = 0x10#8) ∧
      ∀ p : Params, (i = .busCpdisable → p.cpDisableArg = b) → rowEvents p i = [cmdEvent a, cmdEvent b] := by
  have inj : ∀ (a' b' : Byte), (cmdEvent a).word ++ (cmdEvent b).word = (cmdEvent a').word ++ (cmdEvent b').word →
      a = a' ∧ b = b' := by
    intro a' b' hw
    have h1 := congrArg (fun w : BitVec 32 => w.extractLsb' 16 16) hw
    have h2 := congrArg (fun w : BitVec 32 => w.extractLsb' 0 16) hw
    simp only [BitVec.extractLsb'_append_eq_right, BitVec.extractLsb'_append_eq_left] at h1 h2
    exact ⟨congrArg BusEvent.byte (busEvent_word_inj h1), congrArg BusEvent.byte (busEvent_word_inj h2)⟩
  unfold decodeBusPair at h
  split at h
  · rename_i j hj
    injection h with h
    subst h
    simp only [pairBusRows, List.lookup_cons] at hj
    repeat' split at hj
    all_goals first
      | (rename_i hw
         injection hj with hj
         subst hj
         first
           | (obtain ⟨rfl, rfl⟩ := inj 0x81#8 0xFF#8 (by rw [beq_iff_eq.1 hw]; rfl); exact ⟨rfl, nofun, fun _ _ => rfl⟩)
           | (obtain ⟨rfl, rfl⟩ := inj 0xA8#8 0x3F#8 (by rw [beq_iff_eq.1 hw]; rfl); exact ⟨rfl, nofun, fun _ _ => rfl⟩)
           | (obtain ⟨rfl, rfl⟩ := inj 0xD3#8 0x00#8 (by rw [beq_iff_eq.1 hw]; rfl); exact ⟨rfl, nofun, fun _ _ => rfl⟩)
           | (obtain ⟨rfl, rfl⟩ := inj 0xD5#8 0x80#8 (by rw [beq_iff_eq.1 hw]; rfl); exact ⟨rfl, nofun, fun _ _ => rfl⟩)
           | (obtain ⟨rfl, rfl⟩ := inj 0xD8#8 0x05#8 (by rw [beq_iff_eq.1 hw]; rfl); exact ⟨rfl, nofun, fun _ _ => rfl⟩)
           | (obtain ⟨rfl, rfl⟩ := inj 0xD9#8 0xF1#8 (by rw [beq_iff_eq.1 hw]; rfl); exact ⟨rfl, nofun, fun _ _ => rfl⟩)
           | (obtain ⟨rfl, rfl⟩ := inj 0xDA#8 0x12#8 (by rw [beq_iff_eq.1 hw]; rfl); exact ⟨rfl, nofun, fun _ _ => rfl⟩)
           | (obtain ⟨rfl, rfl⟩ := inj 0xDB#8 0x30#8 (by rw [beq_iff_eq.1 hw]; rfl); exact ⟨rfl, nofun, fun _ _ => rfl⟩)
           | (obtain ⟨rfl, rfl⟩ := inj 0x8D#8 0x14#8 (by rw [beq_iff_eq.1 hw]; rfl); exact ⟨rfl, nofun, fun _ _ => rfl⟩)
           | (obtain ⟨rfl, rfl⟩ := inj 0x8D#8 0x10#8 (by rw [beq_iff_eq.1 hw]; rfl)
              exact ⟨rfl, fun _ => ⟨rfl, rfl⟩, fun p hp => by simp [rowEvents, hp rfl]⟩))
      | (simp at hj)
  · cases h

/-- The bytes `8D 10` stand in a row at no position but the head of `SLEEP_SEQ`. -/
theorem seqRom_no_cpdisable {s : State} (h : ¬(s.seq.list = .sleep ∧ s.seq.i = 0#5)) :
    ¬((seqRom s.params s.seq.list)[s.seq.i.toNat]? = some 0x8D#8 ∧
      (seqRom s.params s.seq.list)[s.seq.i.toNat + 1]? = some 0x10#8) := by
  have hk : s.seq.i.toNat < 32 := s.seq.i.isLt
  rintro ⟨ha, hb⟩
  cases hl : s.seq.list with
  | init =>
    rw [hl] at ha hb
    simp only [seqRom] at ha hb
    revert ha hb
    generalize s.seq.i.toNat = k at hk
    revert k
    decide
  | wake =>
    rw [hl] at ha hb
    simp only [seqRom] at ha hb
    revert ha hb
    generalize s.seq.i.toNat = k at hk
    revert k
    decide
  | sleep =>
    have hi : s.seq.i.toNat ≠ 0 := fun h0 => h ⟨hl, BitVec.eq_of_toNat_eq h0⟩
    rw [hl] at hb
    match hk' : s.seq.i.toNat with
    | 0 => exact hi hk'
    | 1 => simp [hk', seqRom, sleepSeq] at hb
    | k + 2 => simp [hk', seqRom, sleepSeq] at hb

/-- What the row fetched at a position can be: the row of the position's one event, or, in a list, the row of the next
two bytes. -/
theorem fetchRow_row {s : State} {i : Instr} {n : Nat} (h : fetchRow s = some (i, n)) :
    i.opcode = none ∧
      ((n = 1 ∧ ∃ e, seqEvent s = .ok e ∧ exec i s = busWrites [e] s) ∨
       (n = 2 ∧ s.seq.st = .list ∧ ∃ a b, (seqRom s.params s.seq.list)[s.seq.i.toNat]? = some a ∧
          (seqRom s.params s.seq.list)[s.seq.i.toNat + 1]? = some b ∧
          exec i s = busWrites [cmdEvent a, cmdEvent b] s)) := by
  have hone : ∀ {r : Option (Instr × Nat)}, r = (match seqEvent s with
      | .ok e => match decodeBus e.word with
        | .ok i => some (i, 1)
        | .error _ => none
      | .error _ => none) → r = some (i, n) →
      i.opcode = none ∧ n = 1 ∧ ∃ e, seqEvent s = .ok e ∧ exec i s = busWrites [e] s := by
    intro r hr hs
    rw [hr] at hs
    cases he : seqEvent s with
    | error e => rw [he] at hs; cases hs
    | ok e =>
      rw [he] at hs
      dsimp only at hs
      split at hs
      · rename_i j hj
        injection hs with hs
        injection hs with h1 h2
        subst h1
        obtain ⟨ho, hr⟩ := decodeBus_row hj
        exact ⟨ho, h2.symm, e, rfl, by rw [exec_busRow ho, hr]⟩
      · cases hs
  unfold fetchRow at h
  dsimp only at h
  cases hst : s.seq.st with
  | idle | pos | stream | data =>
    rw [hst] at h
    obtain ⟨a, b⟩ := hone rfl h
    exact ⟨a, .inl b⟩
  | list =>
    rw [hst] at h
    dsimp only at h
    split at h
    · rename_i hsl
      injection h with h
      injection h with h1 h2
      subst h1
      refine ⟨rfl, .inr ⟨h2.symm, rfl, 0x8D#8, s.params.cpDisableArg, ?_, ?_, rfl⟩⟩ <;>
        simp [seqRom, sleepSeq, hsl.1, hsl.2]
    · rename_i hsl
      split at h
      · rename_i a b ha hb
        split at h
        · rename_i j hj
          injection h with h
          injection h with h1 h2
          subst h1
          obtain ⟨ho, hc, hr⟩ := decodeBusPair_row hj
          refine ⟨ho, .inr ⟨h2.symm, rfl, a, b, ha, hb, ?_⟩⟩
          rw [exec_busRow ho, hr]
          intro hj
          obtain ⟨rfl, rfl⟩ := hc hj
          exact absurd ⟨ha, hb⟩ (seqRom_no_cpdisable hsl)
        · obtain ⟨a, b⟩ := hone rfl h
          exact ⟨a, .inl b⟩
      · obtain ⟨a, b⟩ := hone rfl h
        exact ⟨a, .inl b⟩

end Sys2Proof.Machine
end

