-- ==== Sys2Proof/Laws/PerInstr.lean ====
section
/-! SUPPORT. The per-instruction family WordsOnPort: on which port an instruction's words stand, and which bits of them
every word of that port has (30_encoding.md R50, R52, R56). -/

namespace Sys2Proof.Laws.WordsOnPort

/-- A request operation is one request word with `Z = 0` and the instruction's opcode; a bus row is one bus word tagged
0x00 or 0x40, or two tagged 0x00. -/
def Statement (i : Instr) : Prop :=
  match encode i with
  | .request w => zField w = 0#4 ∧ i.opcode = some (opField w)
  | .bus w => i.opcode = none ∧ (w.extractLsb' 8 8 = 0x00#8 ∨ w.extractLsb' 8 8 = 0x40#8)
  | .busPair w => i.opcode = none ∧ w.extractLsb' 24 8 = 0x00#8 ∧ w.extractLsb' 8 8 = 0x00#8

theorem init : Statement (.init) :=
  ⟨zField_mkRequest _ _ _ _, congrArg some (opField_mkRequest _ _ _ _).symm⟩

theorem setpos (x page : Byte) : Statement (.setpos x page) :=
  ⟨zField_mkRequest _ _ _ _, congrArg some (opField_mkRequest _ _ _ _).symm⟩

theorem data (b : Byte) : Statement (.data b) :=
  ⟨zField_mkRequest _ _ _ _, congrArg some (opField_mkRequest _ _ _ _).symm⟩

theorem wake : Statement (.wake) :=
  ⟨zField_mkRequest _ _ _ _, congrArg some (opField_mkRequest _ _ _ _).symm⟩

theorem sleep : Statement (.sleep) :=
  ⟨zField_mkRequest _ _ _ _, congrArg some (opField_mkRequest _ _ _ _).symm⟩

theorem refresh : Statement (.refresh) :=
  ⟨zField_mkRequest _ _ _ _, congrArg some (opField_mkRequest _ _ _ _).symm⟩

theorem refrange (page startCol endCol : Byte) : Statement (.refrange page startCol endCol) :=
  ⟨zField_mkRequest _ _ _ _, congrArg some (opField_mkRequest _ _ _ _).symm⟩

theorem pixset (x y : Byte) (color : Color) : Statement (.pixset x y color) :=
  ⟨zField_mkRequest _ _ _ _, congrArg some (opField_mkRequest _ _ _ _).symm⟩

theorem clear : Statement (.clear) :=
  ⟨zField_mkRequest _ _ _ _, congrArg some (opField_mkRequest _ _ _ _).symm⟩

theorem pixget (x y : Byte) : Statement (.pixget x y) :=
  ⟨zField_mkRequest _ _ _ _, congrArg some (opField_mkRequest _ _ _ _).symm⟩

theorem busPagesel (page : BitVec 3) : Statement (.busPagesel page) :=
  ⟨rfl, .inl BitVec.extractLsb'_append_eq_left⟩

theorem busColhi (h : BitVec 4) : Statement (.busColhi h) :=
  ⟨rfl, .inl BitVec.extractLsb'_append_eq_left⟩

theorem busCollo (l : BitVec 4) : Statement (.busCollo l) :=
  ⟨rfl, .inl BitVec.extractLsb'_append_eq_left⟩

theorem busData (b : Byte) : Statement (.busData b) :=
  ⟨rfl, .inr BitVec.extractLsb'_append_eq_left⟩

theorem busDispoff : Statement (.busDispoff) :=
  ⟨rfl, .inl rfl⟩

theorem busInitCollo0 : Statement (.busInitCollo0) :=
  ⟨rfl, .inl rfl⟩

theorem busInitColhi0 : Statement (.busInitColhi0) :=
  ⟨rfl, .inl rfl⟩

theorem busStartline0 : Statement (.busStartline0) :=
  ⟨rfl, .inl rfl⟩

theorem busInitPage0 : Statement (.busInitPage0) :=
  ⟨rfl, .inl rfl⟩

theorem busContrast : Statement (.busContrast) :=
  ⟨rfl, rfl, rfl⟩

theorem busSegremap : Statement (.busSegremap) :=
  ⟨rfl, .inl rfl⟩

theorem busA6 : Statement (.busA6) :=
  ⟨rfl, .inl rfl⟩

theorem busMuxratio : Statement (.busMuxratio) :=
  ⟨rfl, rfl, rfl⟩

theorem busComscan : Statement (.busComscan) :=
  ⟨rfl, .inl rfl⟩

theorem busDispoffset : Statement (.busDispoffset) :=
  ⟨rfl, rfl, rfl⟩

theorem busOscdiv : Statement (.busOscdiv) :=
  ⟨rfl, rfl, rfl⟩

theorem busD8 : Statement (.busD8) :=
  ⟨rfl, rfl, rfl⟩

theorem busPrecharge : Statement (.busPrecharge) :=
  ⟨rfl, rfl, rfl⟩

theorem busCompins : Statement (.busCompins) :=
  ⟨rfl, rfl, rfl⟩

theorem busVcomh : Statement (.busVcomh) :=
  ⟨rfl, rfl, rfl⟩

theorem busCpenable : Statement (.busCpenable) :=
  ⟨rfl, rfl, rfl⟩

theorem busDispon : Statement (.busDispon) :=
  ⟨rfl, .inl rfl⟩

theorem busCpdisable : Statement (.busCpdisable) :=
  ⟨rfl, rfl, rfl⟩

end Sys2Proof.Laws.WordsOnPort
end

