-- ==== Sys2Proof/Tests/Slice0.lean ====
section
/-! SUPPORT. Tests of the model's own text. Expected results are taken from spec/95_test_vectors.md (the id stands at
each) and from the encodings of spec/30_encoding.md, written out bit by bit; and, for every statement with hypotheses,
a witness that meets them all. -/

namespace Sys2Proof.Tests

open Sys2Proof Sys2Proof.Machine

/-- The next state, if there is one. -/
def nextOf : Result → Option State
  | .next s => some s
  | .fault _ => none
  | .refused _ => none

/-- TRACE of the next state, as bus words. -/
def traceOf (r : Result) : Option (List (BitVec 16)) := (nextOf r).map fun s => s.trace.map BusEvent.word

/-- Reset, with some GRAM cells set. -/
def withGram (m : Memory) : State := { State.reset with gram := m }

/-- Reset at the bus-write grain, with some request words presented. -/
def stepwise (ws : List Word) : State := { State.reset with grain := .busWrite, requests := ws }

/-! ## Every constructor's word, bit by bit from 30_encoding.md R50 to R60 -/

theorem test_decode_init : decodeRequest 0b00000000101010111100110111101111#32 = .ok .init := by decide
theorem test_decode_setpos : decodeRequest 0b00010000000000000000001101011010#32 = .ok (.setpos 0x5A#8 0x03#8) := by decide
theorem test_decode_data : decodeRequest 0b00100000111111111111111110100101#32 = .ok (.data 0xA5#8) := by decide
theorem test_decode_wake : decodeRequest 0b00110000000000000000000000000000#32 = .ok .wake := by decide
theorem test_decode_sleep : decodeRequest 0b01000000000000000000000000000001#32 = .ok .sleep := by decide
theorem test_decode_refresh : decodeRequest 0b01010000000000000000000000000000#32 = .ok .refresh := by decide
theorem test_decode_refrange : decodeRequest 0b01100000000010110000101000000010#32 = .ok (.refrange 0x02#8 0x0A#8 0x0B#8) := by decide
theorem test_decode_pixset : decodeRequest 0b10000000000000100000110100000101#32 = .ok (.pixset 0x05#8 0x0D#8 .inverse) := by decide
theorem test_decode_clear : decodeRequest 0b10010000000000000000000000000000#32 = .ok .clear := by decide
theorem test_decode_pixget : decodeRequest 0b10100000011101110000110000000101#32 = .ok (.pixget 0x05#8 0x0C#8) := by decide
theorem test_decode_busPagesel : decodeBus 0b0000000010110111#16 = .ok (.busPagesel 7#3) := by decide
theorem test_decode_busColhi : decodeBus 0b0000000000010111#16 = .ok (.busColhi 7#4) := by decide
theorem test_decode_busCollo : decodeBus 0b0000000000001111#16 = .ok (.busCollo 15#4) := by decide
theorem test_decode_busData : decodeBus 0b0100000000111100#16 = .ok (.busData 0x3C#8) := by decide
theorem test_decode_busDispoff : decodeBus 0b0000000010101110#16 = .ok .busDispoff := by decide
theorem test_decode_busInitCollo0 : decodeBus 0b0000000000000000#16 = .ok .busInitCollo0 := by decide
theorem test_decode_busInitColhi0 : decodeBus 0b0000000000010000#16 = .ok .busInitColhi0 := by decide
theorem test_decode_busStartline0 : decodeBus 0b0000000001000000#16 = .ok .busStartline0 := by decide
theorem test_decode_busInitPage0 : decodeBus 0b0000000010110000#16 = .ok .busInitPage0 := by decide
theorem test_decode_busSegremap : decodeBus 0b0000000010100001#16 = .ok .busSegremap := by decide
theorem test_decode_busA6 : decodeBus 0b0000000010100110#16 = .ok .busA6 := by decide
theorem test_decode_busComscan : decodeBus 0b0000000011001000#16 = .ok .busComscan := by decide
theorem test_decode_busDispon : decodeBus 0b0000000010101111#16 = .ok .busDispon := by decide
theorem test_decode_busContrast : decodeBusPair 0b00000000100000010000000011111111#32 = .ok .busContrast := by decide
theorem test_decode_busMuxratio : decodeBusPair 0b00000000101010000000000000111111#32 = .ok .busMuxratio := by decide
theorem test_decode_busDispoffset : decodeBusPair 0b00000000110100110000000000000000#32 = .ok .busDispoffset := by decide
theorem test_decode_busOscdiv : decodeBusPair 0b00000000110101010000000010000000#32 = .ok .busOscdiv := by decide
theorem test_decode_busD8 : decodeBusPair 0b00000000110110000000000000000101#32 = .ok .busD8 := by decide
theorem test_decode_busPrecharge : decodeBusPair 0b00000000110110010000000011110001#32 = .ok .busPrecharge := by decide
theorem test_decode_busCompins : decodeBusPair 0b00000000110110100000000000010010#32 = .ok .busCompins := by decide
theorem test_decode_busVcomh : decodeBusPair 0b00000000110110110000000000110000#32 = .ok .busVcomh := by decide
theorem test_decode_busCpenable : decodeBusPair 0b00000000100011010000000000010100#32 = .ok .busCpenable := by decide
theorem test_decode_busCpdisable : decodeBusPair 0b00000000100011010000000000010000#32 = .ok .busCpdisable := by decide

/-- V-P13, V-P14 and the reserved opcodes: rejected by name. -/
theorem test_decode_reserved :
    decodeRequest 0x80040303#32 = .error (.reservedColourBits 0x04#8) ∧
    decodeRequest 0x81010303#32 = .error (.reservedZ 0x1#4) ∧
    decodeRequest 0x70000000#32 = .error (.reservedOpcode 0x7#4) ∧
    decodeRequest 0xF0000000#32 = .error (.reservedOpcode 0xF#4) := by decide

/-- V-A8: the page byte B9 is no row of the table; no other register-select value is a bus word. -/
theorem test_decode_noBusRow :
    decodeBus 0x00B9#16 = .error (.noBusRow 0x00B9#32) ∧
    decodeBus 0x8000#16 = .error (.badRegisterSelect 0x80#8) := by decide

/-- A word of the table taken as a request word, and the same word on the request port (log entry 14). -/
theorem test_decode_tableWord :
    decodeTableWord 32 0x008100FF = some .busContrast ∧ decodeRequest 0x008100FF#32 = .ok .init ∧
    decodeTableWord 32 0x600B0A02 = some (.refrange 0x02#8 0x0A#8 0x0B#8) ∧
    decodeTableWord 16 0x00B3 = some (.busPagesel 3#3) := by decide

/-! ## The checks of WellFormed, each with an ill-formed term -/

theorem test_wellFormed_refuses_pagesel_zero : (Instr.busPagesel 0#3).wellFormed = false := by decide
theorem test_wellFormed_refuses_colhi_zero : (Instr.busColhi 0#4).wellFormed = false := by decide
theorem test_wellFormed_refuses_collo_zero : (Instr.busCollo 0#4).wellFormed = false := by decide
theorem test_wellFormed_takes_pagesel_one : (Instr.busPagesel 1#3).wellFormed = true := by decide

/-! ## Operations -/

/-- V-P2: page 1, bit 5. -/
theorem test_pixset_white :
    (nextOf (exec (.pixset 5#8 13#8 .white) State.reset)).map State.gram = some [(133, 0x20#8)] := by decide
/-- V-P3. -/
theorem test_pixset_black :
    (nextOf (exec (.pixset 5#8 13#8 .black) (withGram [(133, 0xFF#8)]))).map State.gram = some [(133, 0xDF#8)] := by
  decide
/-- V-P16. -/
theorem test_clear :
    (nextOf (exec .clear (withGram [(133, 0x20#8), (1023, 0x80#8)]))).map State.gram = some [] := by decide
/-- V-P17, V-P18. -/
theorem test_pixget :
    (nextOf (exec (.pixget 5#8 13#8) (withGram [(133, 0x20#8)]))).map (fun s => s.rsp.bit) = some true ∧
    (nextOf (exec (.pixget 5#8 12#8) (withGram [(133, 0x20#8)]))).map (fun s => s.rsp.bit) = some false := by decide
/-- V-P19: a model refuses. -/
theorem test_pixget_outside : exec (.pixget 128#8 0#8) State.reset = .refused .pixgetOutside := rfl
/-- V-A3. -/
theorem test_setpos :
    traceOf (exec (.setpos 0x5A#8 3#8) State.reset) = some [0x00B3#16, 0x0015#16, 0x000A#16] := by decide
/-- V-A9: the page byte wraps at 8 bits. -/
theorem test_setpos_wrap :
    traceOf (exec (.setpos 0#8 80#8) State.reset) = some [0x0000#16, 0x0010#16, 0x0000#16] := by decide
/-- V-A13. -/
theorem test_data : traceOf (exec (.data 0xA5#8) State.reset) = some [0x40A5#16] := by decide
/-- V-I1. -/
theorem test_init :
    (nextOf (exec .init State.reset)).map (fun s => (s.trace.length, s.trace[24]?, s.ready, s.rsp.bit)) =
      some (27, some ⟨.cmd, 0x8D#8⟩, true, true) := by decide
/-- V-I2. -/
theorem test_init_badTransport :
    (nextOf (exec .init { State.reset with busOk := false, ready := true })).map
      (fun s => (s.trace, s.ready, s.rsp.bit)) = some ([], false, false) := by decide
/-- V-I5. -/
theorem test_wake : traceOf (exec .wake State.reset) = some [0x008D#16, 0x0014#16, 0x00AF#16] := by decide
/-- V-I7, with another argument byte. -/
theorem test_sleep :
    traceOf (exec .sleep { State.reset with params := { cpDisableArg := 0x33#8, rangeReversed := .setposOnly } }) =
      some [0x008D#16, 0x0033#16, 0x00AE#16] := by decide
/-- V-R1: where the events of the last page stand. -/
theorem test_refresh :
    (nextOf (exec .refresh (withGram [(0, 0x3C#8), (1023, 0xA5#8)]))).map
      (fun s => (s.trace[3]?, s.trace[917]?, s.trace[1047]?)) =
      some (some ⟨.data, 0x3C#8⟩, some ⟨.cmd, 0xB7#8⟩, some ⟨.data, 0xA5#8⟩) := by decide +kernel
/-- V-R10. -/
theorem test_refrange :
    traceOf (exec (.refrange 2#8 10#8 11#8) (withGram [(267, 0x02#8)])) =
      some [0x00B2#16, 0x0010#16, 0x000A#16, 0x4000#16, 0x4002#16] := by decide
/-- V-R3, V-R8: out of range, and reversed under the default policy. -/
theorem test_refrange_nothing_streamed :
    traceOf (exec (.refrange 9#8 0#8 0#8) State.reset) = some [] ∧
    traceOf (exec (.refrange 1#8 5#8 3#8) State.reset) = some [0x00B1#16, 0x0010#16, 0x0005#16] := by decide
/-- R58: a two-event row. -/
theorem test_busContrast : traceOf (exec .busContrast State.reset) = some [0x0081#16, 0x00FF#16] := by decide

/-! ## Steps -/

/-- V-P13: a reserved word is taken and does nothing. -/
theorem test_step_reserved :
    (nextOf (step { State.reset with requests := [0x80040303#32, 0x30000000#32] })).map
      (fun s => (s.gram, s.trace, s.rsp, s.requests)) =
      some ([], [], { valid := true, bit := false }, [0x30000000#32]) := by decide
/-- V-S3: four steps of SETPOS 8,1. -/
theorem test_steps_setpos :
    traceOf (stepsOf 4 (stepwise [0x10000108#32])) = some [0x00B1#16, 0x0010#16, 0x0008#16] ∧
    (nextOf (stepsOf 3 (stepwise [0x10000108#32]))).map State.busy = some true ∧
    (nextOf (stepsOf 4 (stepwise [0x10000108#32]))).map State.busy = some false := by decide
/-- V-S4: REFRANGE 2,10,11 is idle after six steps. -/
theorem test_steps_refrange :
    (nextOf (stepsOf 5 (stepwise [0x600B0A02#32]))).map State.busy = some true ∧
    (nextOf (stepsOf 6 (stepwise [0x600B0A02#32]))).map (fun s => (s.busy, s.trace.length)) = some (false, 5) := by
  decide
/-- Program 4 of the vectors, by whole operations. -/
theorem test_steps_direct :
    traceOf (stepsOf 3 { State.reset with requests := [0x10000108#32, 0x200000FF#32, 0x20000081#32] }) =
      some [0x00B1#16, 0x0010#16, 0x0008#16, 0x40FF#16, 0x4081#16] := by decide
/-- A bus row put at its sequencer position runs, and the sequencer moves on to the next row. -/
theorem test_step_busRow :
    traceOf (step (State.reset.withFetchWord 32 0x008100FF)) = some [0x0081#16, 0x00FF#16] ∧
    (nextOf (step (State.reset.withFetchWord 32 0x008100FF))).map (fun s => s.seq.i) = some 7#5 := by decide
/-- A request put on the port runs first after reset. -/
theorem test_step_fetchWord :
    traceOf (step (State.reset.withFetchWord 32 0x1000035A)) = some [0x00B3#16, 0x0015#16, 0x000A#16] := by decide
/-- 44_sequencer.md R122: reset in the middle of an operation. -/
theorem test_step_rst :
    (nextOf (step { withGram [(5, 1#8)] with rst := true, ready := true, seq := { Seq.reset with st := .data } })).map
      (fun s => (s.gram, s.ready, s.seq.st, s.rsp.valid)) = some ([], false, .idle, false) := by decide

/-- 10_state.md R20 (a), R21: reset of an idle DCB starts TRACE empty. -/
theorem test_step_rst_idle :
    (nextOf (step { State.reset with rst := true, trace := [dataEvent 0xA5#8] })).map State.trace = some [] := by decide
/-- 44_sequencer.md R122: of an abandoned operation the events already in TRACE stay; with `bus_ok` 0 no more come. -/
theorem test_step_rst_busy :
    (nextOf (step { State.reset with
      rst := true, busOk := false, trace := [cmdEvent 0xB0#8], seq := { Seq.reset with st := .data } })).map State.trace =
      some [cmdEvent 0xB0#8] := by decide

/-! ## Assembler and reference sink -/

/-- 30_encoding.md R62: PIXSET 5, 0x0D, WHITE ; c -/
theorem test_assemble :
    assembleLine [' ', 'P', 'I', 'X', 'S', 'E', 'T', ' ', '5', ',', ' ', '0', 'x', '0', 'D', ',', 'W', 'H', 'I', 'T',
      'E', ' ', ';', ' ', 'c'] = some [.pixset 5#8 13#8 .white] := by decide
/-- 30_encoding.md R63: SHUTDOWN, and its request words. -/
theorem test_assemble_pseudo :
    (assembleLine ['S', 'H', 'U', 'T', 'D', 'O', 'W', 'N']).map requestWords =
      some [0x90000000#32, 0x50000000#32, 0x40000000#32] := by decide
/-- 20_memory.md R48: the two bytes of V-R10 land in the sink's page 2, columns 10 and 11. -/
theorem test_sink :
    (Display.run { dram := [(266, 0x55#8)], dp := 5#3, dc := 77#8, argPending := false }
      (rangeEvents [(267, 0x02#8)] 2#8 10#8 11#8)).dram = [(267, 0x02#8)] := by decide

/-! ## Witnesses: for every statement with hypotheses, a state and operands that meet them all -/

/-- A busy state in the middle of a list: INIT about to send `INIT_SEQ[26]`. -/
def midList : State := { State.reset with seq := { Seq.reset with st := .list, list := .init, i := 26#5 } }

/-- A busy state in the middle of a stream: page 7, column 127, the last cell of a refresh. -/
def midStream : State :=
  { State.reset with
    grain := .busWrite
    seq := { Seq.reset with st := .stream, pg := 7#8, col := 127#8, last := 127#8, full := true, strm := true } }

/-- A busy state in the middle of a triplet. -/
def midTriplet (i : BitVec 5) (strm : Bool) : State :=
  { State.reset with
    grain := .busWrite, seq := { Seq.reset with st := .pos, i := i, pg := 7#8, x := 127#8, last := 127#8, strm := strm } }

/-- A busy state of DATA. -/
def midData : State :=
  { State.reset with grain := .busWrite, req := 0x200000A5#32, seq := { Seq.reset with st := .data } }

theorem witness_DecodeOfEncodeIsTheInstruction : (Instr.busPagesel 7#3).wellFormed = true := by decide
theorem witness_BusWordsReencode :
    decodeBus 0x0001#16 = .ok (.busCollo 1#4) ∧ decodeBusPair 0x008D0010#32 = .ok .busCpdisable := by decide
theorem witness_RequestFormatAndIgnoredFields :
    zField 0x0F000000#32 ≠ 0#4 ∧ decodeRequest 0x20FFFFA5#32 = .ok (.data 0xA5#8) ∧
    0x200000A5#32 &&& careMask (.data 0xA5#8) = 0x20FFFFA5#32 &&& careMask (.data 0xA5#8) := by decide
theorem witness_OpcodeMapSelectsOneRow :
    (∃ t, decodeRequest 0x90000000#32 = .ok .clear ∧ exec .clear State.reset = .next t ∧
      (0x90000000#32).getLsbD 31 = true) ∧
    (∃ t, decodeRequest 0x20000000#32 = .ok (.data 0#8) ∧ exec (.data 0#8) State.reset = .next t ∧
      (0x20000000#32).getLsbD 31 = false) :=
  ⟨⟨_, rfl, rfl, rfl⟩, ⟨_, rfl, rfl, rfl⟩⟩
theorem witness_ReservedWordIsANoOp :
    State.presents { State.reset with requests := [0x80030303#32] } 0x80030303#32 [] ∧ reservedWord 0x80030303#32 :=
  ⟨⟨rfl, rfl, rfl⟩, by unfold reservedWord; decide⟩
theorem witness_ColourCodesActOnOnePixel :
    State.reset.seq.st = .idle ∧ State.reset.gram.wf = true ∧ (127#8).toNat < 128 ∧ (63#8).toNat < 64 ∧
    (0 < 128 ∧ 0 < 64 ∧ ¬(0 = (127#8).toNat ∧ 0 = (63#8).toNat)) := by decide
theorem witness_PixsetRewritesOneCell :
    State.reset.seq.st = .idle ∧ (withGram [(0, 1#8), (1023, 0x80#8)]).gram.wf = true ∧
    ¬((128#8).toNat < 128 ∧ (0#8).toNat < 64) ∧ ((127#8).toNat < 128 ∧ (63#8).toNat < 64) := by decide
theorem witness_FrameBufferLaws :
    ∃ t u v t' u', exec (.pixset 127#8 63#8 .white) State.reset = .next t ∧
      exec (.pixset 127#8 63#8 .black) t = .next u ∧ exec .clear State.reset = .next v ∧
      exec (.pixset 127#8 63#8 .inverse) State.reset = .next t' ∧ exec (.pixset 127#8 63#8 .inverse) t' = .next u' ∧
      ∃ z, exec (.pixset 128#8 63#8 .white) State.reset = .next z :=
  ⟨_, _, _, _, _, rfl, rfl, rfl, rfl, rfl, _, rfl⟩
theorem witness_ClearZeroesEveryCell : State.reset.seq.st = .idle := rfl
theorem witness_ClearIsItsLoop :
    (withGram [(5, 1#8)]).gram.wf = true ∧ ∃ t, exec .clear (withGram [(5, 1#8)]) = .next t := ⟨by decide, _, rfl⟩
theorem witness_PixgetReturnsThePixel :
    State.reset.seq.st = .idle ∧ (127#8).toNat < 128 ∧ (63#8).toNat < 64 := by decide
theorem witness_PixgetOutsideIsRefused :
    State.reset.seq.st = .idle ∧ ¬((128#8).toNat < 128 ∧ (63#8).toNat < 64) ∧
    ¬((127#8).toNat < 128 ∧ (64#8).toNat < 64) ∧
    State.presents { State.reset with requests := [0xA0003F80#32] } 0xA0003F80#32 [] ∧
    decodeRequest 0xA0003F80#32 = .ok (.pixget 128#8 63#8) :=
  ⟨rfl, by decide, by decide, ⟨rfl, rfl, rfl⟩, rfl⟩
/-- Idle with a transport that answers: the hypotheses of the statements about SETPOS, DATA, WAKE, SLEEP, REFRESH, of
RefreshIsEightWholePages, and of the two about bus rows. -/
theorem witness_idle_and_answering : State.reset.seq.st = .idle ∧ State.reset.busDone = true := by decide
theorem witness_InitSendsTheSequenceAndSetsReady :
    (State.reset.seq.st = .idle ∧ State.reset.busOk = true ∧ State.reset.busDone = true) ∧
    ({ State.reset with busOk := false } : State).busOk = false := by decide
theorem witness_RefrangeStreamsItsSpan :
    State.reset.seq.st = .idle ∧ State.reset.busDone = true ∧
    ¬((8#8).toNat < 8 ∧ (0#8).toNat < 128 ∧ (0#8).toNat < 128) ∧
    ((7#8).toNat < 8 ∧ (0#8).toNat < 128 ∧ (127#8).toNat < 128 ∧ (0#8).toNat ≤ (127#8).toNat) ∧
    ((7#8).toNat < 8 ∧ (127#8).toNat < 128 ∧ (126#8).toNat < 128 ∧ (126#8).toNat < (127#8).toNat) := by decide
theorem witness_RefrangeStreamsItsSpan_policies :
    State.reset.params.rangeReversed = .setposOnly ∧
    ({ State.reset with params := ⟨0x10#8, .noop⟩ } : State).params.rangeReversed = .noop ∧
    ({ State.reset with params := ⟨0x10#8, .refuse⟩ } : State).params.rangeReversed = .refuse := by decide
theorem witness_BusRowsWriteWhatTheyEncode :
    (∃ t, exec (.busCollo 0#4) State.reset = .next t ∧ encode (.busCollo 0#4) = .bus 0x0000#16) ∧
    (∃ t, exec .busCpdisable State.reset = .next t ∧ encode .busCpdisable = .busPair 0x008D0010#32 ∧
      State.reset.params.cpDisableArg = 0x10#8) := ⟨⟨_, rfl, rfl⟩, ⟨_, rfl, rfl, rfl⟩⟩
theorem witness_StepRunsThePresentedRequest :
    State.presents { State.reset with requests := [0x30000000#32] } 0x30000000#32 [] ∧
    State.reset.grain = .operation ∧ decodeRequest 0x30000000#32 = .ok .wake := ⟨⟨rfl, rfl, rfl⟩, rfl, rfl⟩
theorem witness_StepRunsTheBusRowAtTheSequencer :
    midList.rst = false ∧ midList.seq.st ≠ .idle ∧ midList.grain = .operation ∧
    fetchRow midList = some (.busDispon, 1) ∧ ∃ t, exec .busDispon midList = .next t :=
  ⟨rfl, by decide, rfl, by decide, _, rfl⟩
theorem witness_FetchWordIsFetchedAndRun :
    decodeTableWord 32 0x20000000 = some (.data 0#8) ∧ (Instr.data 0#8).opcode.isSome = true ∧
    decodeTableWord 16 0x4000 = some (.busData 0#8) ∧ (Instr.busData 0#8).opcode = none := by decide
theorem witness_IdleWithoutRequestDoesNothing :
    State.reset.legal = true ∧ State.reset.rst = false ∧ State.reset.seq.st = .idle ∧ State.reset.requests = [] := by
  decide
theorem witness_AcceptStepFollowsItsTable (w : Word) :
    State.presents (stepwise [w]) w [] ∧ (stepwise [w]).grain = .busWrite := ⟨⟨rfl, rfl, rfl⟩, rfl⟩
/-- Each clause of the accept table has its word. -/
theorem witness_AcceptStepFollowsItsTable_words :
    reservedWord 0x70000000#32 ∧ decodeRequest 0x80000000#32 = .ok (.pixset 0 0 .black) ∧
    decodeRequest 0x90000000#32 = .ok .clear ∧ decodeRequest 0xA0000000#32 = .ok (.pixget 0 0) ∧
    decodeRequest 0x00000000#32 = .ok .init ∧ decodeRequest 0x30000000#32 = .ok .wake ∧
    decodeRequest 0x40000000#32 = .ok .sleep ∧ decodeRequest 0x10000000#32 = .ok (.setpos 0 0) ∧
    decodeRequest 0x20000000#32 = .ok (.data 0) ∧ decodeRequest 0x50000000#32 = .ok .refresh ∧
    decodeRequest 0x60000008#32 = .ok (.refrange 8 0 0) ∧ decodeRequest 0x607F7F07#32 = .ok (.refrange 7 127 127) ∧
    decodeRequest 0x607E7F07#32 = .ok (.refrange 7 127 126) := by
  unfold reservedWord
  decide
theorem witness_BusyStepKeepsRequestsAndGram :
    midList.rst = false ∧ midList.seq.st ≠ .idle ∧ ∃ t, step midList = .next t := ⟨rfl, by decide, _, rfl⟩
theorem witness_ListStepSendsTheNextByte :
    ({ midList with grain := .busWrite } : State).busDone = true ∧ midList.rst = false ∧ midList.seq.st = .list ∧
    initSeq[midList.seq.i.toNat]? = some 0xAF#8 := by decide
theorem witness_PosStepSendsTheTripletByte :
    (midTriplet 0#5 true).rst = false ∧ (midTriplet 0#5 true).grain = .busWrite ∧
    (midTriplet 0#5 true).busDone = true ∧ (midTriplet 0#5 true).seq.st = .pos ∧ (midTriplet 0#5 true).seq.i = 0#5 ∧
    (midTriplet 1#5 true).seq.i = 1#5 ∧ (midTriplet 2#5 true).seq.strm = true ∧
    (midTriplet 2#5 false).seq.strm = false := by decide
theorem witness_DataStepSendsTheLatchedByte :
    midData.rst = false ∧ midData.grain = .busWrite ∧ midData.busDone = true ∧ midData.seq.st = .data := by decide
theorem witness_StreamStepSendsTheNextCell :
    midStream.legal = true ∧ midStream.rst = false ∧ midStream.grain = .busWrite ∧ midStream.busDone = true ∧
    midStream.seq.st = .stream := by decide
theorem witness_BusWriteWaitsForTheTransport :
    ({ midStream with busDone := false } : State).legal = true ∧
    ({ midStream with busDone := false } : State).busDone = false ∧ midStream.seq.st ≠ .idle := by decide
theorem witness_OperationIsStuckWithoutTheTransport :
    ({ State.reset with busDone := false } : State).busDone = false ∧
    0 < opBusWrites (.data 0#8) { State.reset with busDone := false } ∧ State.reset.seq.st = .idle := by decide
theorem witness_RequestWhileBusyIsRefused : Instr.clear.opcode.isSome = true ∧ midList.seq.st ≠ .idle := by decide
theorem witness_StepsAgreeWithTheOperationRule :
    State.presents (stepwise [0x20000000#32]) 0x20000000#32 [] ∧ (stepwise [0x20000000#32]).grain = .busWrite ∧
    (stepwise [0x20000000#32]).busDone = true ∧ decodeRequest 0x20000000#32 = .ok (.data 0#8) ∧
    (∃ u, exec (.data 0#8) ((stepwise [0x20000000#32]).latch 0x20000000#32 []) = .next u) ∧
    ∃ e, decodeRequest 0x70000000#32 = .error e :=
  ⟨⟨rfl, rfl, rfl⟩, rfl, rfl, rfl, ⟨_, rfl⟩, _, rfl⟩
theorem witness_RowStepIsItsBusWriteSteps :
    fetchRow (midList.atRow .busContrast) = some (.busContrast, 2) ∧
    ∃ t, step (midList.atRow .busContrast) = .next t := ⟨by decide, _, rfl⟩
theorem witness_EveryOperationMakesItsBusWrites : ∃ t, exec .wake State.reset = .next t := ⟨_, rfl⟩
theorem witness_EveryCellIsZeroAfterResetAndClear :
    ∃ t, step ({ withGram [(5, 1#8)] with rst := true } : State) = .next t := ⟨_, rfl⟩
/-- The hypotheses of RstAbandonsTheOperation, in the middle of an operation and idle, and of the reset clause of
ResetLeavesTheStatedValues. -/
theorem witness_RstAbandonsTheOperation :
    ({ midStream with rst := true } : State).rst = true ∧ midStream.seq.st ≠ .idle ∧
    ({ State.reset with rst := true } : State).rst = true ∧ State.reset.seq.st = .idle := by decide
theorem witness_EveryStepKeepsTheStateLegal : midStream.legal = true ∧ ∃ t, step midStream = .next t :=
  ⟨by decide, _, rfl⟩
theorem witness_LegalStepNeverStops : midStream.legal = true ∧ midStream.busDone = true := by decide
theorem witness_OnlyPixsetAndClearWriteGram :
    ∃ t, step { State.reset with requests := [0x80010000#32] } = .next t ∧ t.gram ≠ State.reset.gram :=
  ⟨_, rfl, by decide⟩
theorem witness_OnlyInitWritesReady :
    (∃ t, step { State.reset with requests := [0x00000000#32] } = .next t ∧ t.ready ≠ State.reset.ready) ∧
    (∃ t, step midList = .next t ∧ t.ready ≠ midList.ready) := ⟨⟨_, rfl, by decide⟩, ⟨_, rfl, by decide⟩⟩
theorem witness_NothingIsGatedOnReady : ∃ t, exec .refresh State.reset = .next t := ⟨_, rfl⟩
theorem witness_TraceIsOnlyAppendedTo :
    ((∃ t, step midStream = .next t) ∧ midStream.rst = false) ∧
    (∃ t, step ({ State.reset with rst := true } : State) = .next t) ∧ State.reset.seq.st = .idle :=
  ⟨⟨⟨_, rfl⟩, rfl⟩, ⟨_, rfl⟩, rfl⟩
theorem witness_InvalidTransportDeliversNothing :
    ∃ t, exec .refresh { State.reset with busOk := false } = .next t ∧ Instr.refresh ≠ .init := ⟨_, rfl, by decide⟩
theorem witness_RefreshMirrorsGramOnTheSink :
    (withGram [(5, 1#8)]).gram.wf = true ∧ State.reset.busOk = true ∧
    (∃ t, exec .refresh (withGram [(5, 1#8)]) = .next t) ∧
    (⟨[(7, 9#8)], 3#3, 200#8, false⟩ : Display).dram.wf = true := ⟨by decide, rfl, ⟨_, rfl⟩, by decide⟩
theorem witness_RefrangeMirrorsItsSpanOnTheSink :
    (∃ t, exec (.refrange 7#8 0#8 127#8) State.reset = .next t) ∧ (7#8).toNat < 8 ∧ (0#8).toNat ≤ (127#8).toNat ∧
    (127#8).toNat < 128 := ⟨⟨_, rfl⟩, by decide⟩
theorem witness_InitMovesThePositionOnTheSink :
    State.reset.busOk = true ∧ (∃ t, exec .init State.reset = .next t) := ⟨rfl, _, rfl⟩

end Sys2Proof.Tests
end

section
/-! What one run of `exec` and one `step` can do, said once. The invariants below are case analyses on these. -/

namespace Sys2Proof.Machine

/-- Everything `exec i s` can leave: bus events sent and no more (a bus row), an operation finished with some result,
and what INIT, PIXSET and CLEAR write besides. -/
inductive Effect (s : State) : Instr → State → Prop
  | sent (i : Instr) (es : List BusEvent) : Effect s i (s.deliverAll es)
  | finished (i : Instr) (es : List BusEvent) (v : Bool) : Effect s i ((s.deliverAll es).done v)
  | initialised (es : List BusEvent) : Effect s .init (((s.deliverAll es).setReady s.busOk).done s.busOk)
  | wrotePixel (x y : Byte) (color : Color) (v : Byte) (h : pixelInRange x y = true) :
      Effect s (.pixset x y color) ((s.setCell (pageOf y) x.toNat v).done false)
  | cleared : Effect s .clear (({ s with gram := [] } : State).done false)

/-- Finishing without a bus write is `finished` with no event. -/
theorem Effect.done (s : State) (i : Instr) (v : Bool) : Effect s i (s.done v) := by
  simpa using Effect.finished (s := s) i [] v

theorem Effect.of_emitAndFinish {s t : State} {es : List BusEvent} (i : Instr) (h : emitAndFinish es s = .next t) :
    Effect s i t := by
  obtain ⟨-, rfl⟩ := emitAndFinish_eq_next.1 h
  exact .finished i es false

theorem Effect.of_init {s t : State} (h : execInit s = .next t) : Effect s .init t := by
  obtain ⟨-, h⟩ := whenIdle_eq_next.1 h
  have key := Effect.initialised (s := s)
  split at h <;> rename_i hok
  · obtain ⟨u, hu, h⟩ := andThen_eq_next.1 h
    obtain ⟨-, rfl⟩ := busWrites_eq_next.1 hu
    injection h with h
    simpa [← h, hok] using key (initSeq.map cmdEvent)
  · injection h with h
    simpa [← h, hok] using key []

theorem execRefresh_eq_next {s t : State} :
    execRefresh s = .next t ↔ s.seq.st = .idle ∧ emitAndFinish (refreshEvents s.gram) s = .next t :=
  whenIdle_eq_next

theorem Effect.of_refresh {s t : State} (h : execRefresh s = .next t) : Effect s .refresh t :=
  .of_emitAndFinish _ (execRefresh_eq_next.1 h).2

theorem Effect.of_refrange {s t : State} {page a z : Byte} (h : execRefrange page a z s = .next t) :
    Effect s (.refrange page a z) t := by
  obtain ⟨-, h⟩ := whenIdle_eq_next.1 h
  split at h
  · split at h
    · exact .of_emitAndFinish _ h
    · split at h
      · exact .of_emitAndFinish _ h
      · injection h with h
        exact h ▸ .done s _ false
      · cases h
  · injection h with h
    exact h ▸ .done s _ false

theorem Effect.of_pixset {s t : State} {x y : Byte} {color : Color} (h : execPixset x y color s = .next t) :
    Effect s (.pixset x y color) t := by
  obtain ⟨-, h⟩ := whenIdle_eq_next.1 h
  split at h <;> rename_i hin <;> injection h with h <;> subst h
  · exact .wrotePixel x y color _ hin.1
  · exact .done s _ false

theorem execClear_eq_next {s t : State} :
    execClear s = .next t ↔ s.seq.st = .idle ∧ t = ({ s with gram := [] } : State).done false := by
  unfold execClear
  rw [whenIdle_eq_next, Host.Outcome.next.injEq, eq_comm (a := t)]

theorem Effect.of_clear {s t : State} (h : execClear s = .next t) : Effect s .clear t := by
  obtain ⟨-, rfl⟩ := execClear_eq_next.1 h
  exact .cleared

theorem Effect.of_pixget {s t : State} {x y : Byte} (h : execPixget x y s = .next t) : Effect s (.pixget x y) t := by
  obtain ⟨-, h⟩ := whenIdle_eq_next.1 h
  split at h
  · injection h with h
    exact h ▸ .done s _ _
  · cases h

/-- A table row that answers a next state has one of the effects. -/
theorem exec_effect {i : Instr} {s t : State} (h : exec i s = .next t) : Effect s i t := by
  by_cases hrow : i.opcode = none
  · rw [exec_busRow hrow] at h
    obtain ⟨-, rfl⟩ := busWrites_eq_next.1 h
    exact .sent i _
  · cases i with
    | init => exact .of_init h
    | refrange => exact .of_refrange h
    | pixset => exact .of_pixset h
    | clear => exact .of_clear h
    | pixget => exact .of_pixget h
    | refresh => exact .of_refresh h
    | setpos | data | wake | sleep => exact .of_emitAndFinish _ (whenIdle_eq_next.1 h).2
    | _ => exact absurd rfl hrow

/-- The accept step completes the operation as `exec` does, or writes `SEQ` alone: the sequencer starts, at a legal
position (44_sequencer.md R111). -/
theorem acceptOp_cases {i : Instr} {s t : State} (h : acceptOp i s = .next t) :
    exec i s = .next t ∨ ∃ q : Seq, q.st ≠ .idle ∧ t = { s with seq := q } ∧ t.seqLegal = true := by
  cases i with
  | init =>
    simp only [acceptOp] at h
    split at h
    · injection h with h
      exact .inr ⟨_, by simp, h.symm, h ▸ rfl⟩
    · exact .inl h
  | wake | sleep | setpos | data | refresh =>
    injection h with h
    exact .inr ⟨_, by simp, h.symm, h ▸ rfl⟩
  | refrange page a z =>
    simp only [acceptOp] at h
    split at h
    · rename_i hvalid
      split at h
      · rename_i haz
        injection h with h
        refine .inr ⟨_, by simp, h.symm, ?_⟩
        simp only [rangeValid, decide_eq_true_eq] at hvalid
        simp [← h, State.seqLegal, hvalid, haz]
      · split at h
        · injection h with h
          exact .inr ⟨_, by simp, h.symm, h ▸ rfl⟩
        · exact .inl h
        · exact .inl h
    · exact .inl h
  | _ => exact .inl h

/-- A row step makes the one bus write of its position, or, in a list, the two of a two-event row. -/
theorem rowStep_cases {s t : State} (h : rowStep s = .next t) :
    s.busDone = true ∧ ((∃ e, seqEvent s = .ok e ∧ t = advance (s.deliver e)) ∨
      (s.seq.st = .list ∧ ∃ a b, (seqRom s.params s.seq.list)[s.seq.i.toNat]? = some a ∧
        (seqRom s.params s.seq.list)[s.seq.i.toNat + 1]? = some b ∧
        t = advance (advance (s.deliverAll [cmdEvent a, cmdEvent b])))) := by
  unfold rowStep at h
  split at h
  · rename_i i n hrow
    obtain ⟨u, hu, h⟩ := andThen_eq_next.1 h
    injection h with h
    obtain ⟨-, ⟨rfl, e, he, hx⟩ | ⟨rfl, hl, a, b, ha, hb, hx⟩⟩ := fetchRow_row hrow
    · obtain ⟨hd, rfl⟩ := busWrites_eq_next.1 (hx ▸ hu)
      exact ⟨hd, .inl ⟨e, he, by rw [← h, State.deliverAll_one]; rfl⟩⟩
    · obtain ⟨hd, rfl⟩ := busWrites_eq_next.1 (hx ▸ hu)
      exact ⟨hd, .inr ⟨hl, a, b, ha, hb, h.symm⟩⟩
  · split at h
    · cases h
    · rename_i e he
      obtain ⟨u, hu, h⟩ := andThen_eq_next.1 h
      injection h with h
      obtain ⟨hd, rfl⟩ := busWrites_eq_next.1 hu
      exact ⟨hd, .inl ⟨e, he, by rw [← h, State.deliverAll_one]⟩⟩

theorem State.presents.idle {s : State} {w : Word} {rest : List Word} (h : s.presents w rest) : s.seq.st = .idle :=
  h.2.1

theorem State.presents.requests {s : State} {w : Word} {rest : List Word} (h : s.presents w rest) :
    s.requests = w :: rest :=
  h.2.2

/-- Everything a step that answers can do, at either grain. -/
inductive StepCase (s : State) : State → Prop
  | resets (hrst : s.rst = true) : StepCase s (applyReset s)
  | waits {e : BusEvent} (hrst : s.rst = false) (hbusy : s.seq.st ≠ .idle) (hd : s.busDone = false)
      (he : seqEvent s = .ok e) : StepCase s (s.present e)
  | writesOne {e : BusEvent} (hrst : s.rst = false) (hbusy : s.seq.st ≠ .idle) (hd : s.busDone = true)
      (he : seqEvent s = .ok e) : StepCase s (advance (s.deliver e))
  | writesTwo {a b : Byte} (hrst : s.rst = false) (hlist : s.seq.st = .list) (hd : s.busDone = true)
      (ha : (seqRom s.params s.seq.list)[s.seq.i.toNat]? = some a)
      (hb : (seqRom s.params s.seq.list)[s.seq.i.toNat + 1]? = some b) :
      StepCase s (advance (advance (s.deliverAll [cmdEvent a, cmdEvent b])))
  | rests (hrst : s.rst = false) (hidle : s.seq.st = .idle) (hq : s.requests = []) : StepCase s s.quiet
  | ignores {w : Word} {rest : List Word} {e : DecodeError} (hp : s.presents w rest)
      (hw : decodeRequest w = .error e) : StepCase s ((s.latch w rest).done false)
  | runs {w : Word} {rest : List Word} {i : Instr} {t : State} (hp : s.presents w rest)
      (hw : decodeRequest w = .ok i) (hx : exec i (s.latch w rest) = .next t) : StepCase s t
  | starts {w : Word} {rest : List Word} {i : Instr} {q : Seq} (hp : s.presents w rest)
      (hw : decodeRequest w = .ok i) (hbusy : q.st ≠ .idle)
      (hlegal : State.seqLegal { s.latch w rest with seq := q } = true) :
      StepCase s { s.latch w rest with seq := q }

theorem StepCase.of_busyStep {s t : State} (hrst : s.rst = false) (hbusy : s.seq.st ≠ .idle)
    (h : busyStep s = .next t) : StepCase s t := by
  unfold busyStep at h
  split at h
  · obtain ⟨hd, ⟨e, he, rfl⟩ | ⟨hl, a, b, ha, hb, rfl⟩⟩ := rowStep_cases h
    · exact .writesOne hrst hbusy hd he
    · exact .writesTwo hrst hl hd ha hb
  · obtain ⟨e, he, ⟨hd, rfl⟩ | ⟨hd, rfl⟩⟩ := busStep_eq_next.1 h
    · exact .writesOne hrst hbusy hd he
    · exact .waits hrst hbusy hd he

theorem StepCase.of_acceptRequest {s t : State} {w : Word} {rest : List Word} (hp : s.presents w rest)
    (h : acceptRequest w rest s = .next t) : StepCase s t := by
  unfold acceptRequest at h
  split at h
  · rename_i e hw
    injection h with h
    exact h ▸ .ignores hp hw
  · rename_i i hw
    split at h
    · exact .runs hp hw h
    · obtain hx | ⟨q, hbusy, rfl, hlegal⟩ := acceptOp_cases h
      · exact .runs hp hw hx
      · exact .starts hp hw hbusy hlegal

/-- Inversion of `step`. -/
theorem step_cases {s t : State} (h : step s = .next t) : StepCase s t := by
  unfold step at h
  split at h
  · rename_i hrst
    injection h with h
    exact h ▸ .resets hrst
  · rename_i hrst
    have hrst : s.rst = false := by simpa using hrst
    split at h
    · rename_i hbusy
      exact .of_busyStep hrst (by simpa using hbusy) h
    · rename_i hidle
      have hidle : s.seq.st = .idle := by simpa using hidle
      split at h
      · rename_i hq
        injection h with h
        exact h ▸ .rests hrst hidle hq
      · rename_i w rest hq
        exact .of_acceptRequest ⟨hrst, hidle, hq⟩ h

/-! ## The positions of the sequencer -/

/-- The span still to stream lies inside GRAM (44_sequencer.md R116). -/
def Seq.SpanInside (q : Seq) : Prop :=
  q.pg.toNat < 8 ∧ q.col.toNat ≤ q.last.toNat ∧ q.last.toNat < 128

theorem seqLegal_idle {s : State} (h : s.seq.st = .idle) : s.seqLegal = true := by
  simp [State.seqLegal, h]

theorem seqLegal_list {s : State} (h : s.seq.st = .list) :
    s.seqLegal = true ↔ s.seq.i.toNat < (seqRom s.params s.seq.list).length := by
  simp [State.seqLegal, h]

theorem seqLegal_pos {s : State} (h : s.seq.st = .pos) :
    s.seqLegal = true ↔ s.seq.i.toNat < 3 ∧ (s.seq.strm = true → s.seq.SpanInside) := by
  simp [State.seqLegal, Seq.SpanInside, h, imp_iff_not_or]

theorem seqLegal_stream {s : State} (h : s.seq.st = .stream) :
    s.seqLegal = true ↔ s.seq.strm = true ∧ s.seq.SpanInside := by
  simp [State.seqLegal, Seq.SpanInside, h]

theorem seqRom_length_lt (p : Params) (l : SeqList) : (seqRom p l).length < 32 := by
  cases l <;> simp [seqRom, initSeq, wakeSeq, sleepSeq]

/-- What `advance` can do: end INIT, end another operation, or move on inside the operation. -/
theorem advance_cases (s : State) :
    (s.seq.st = .list ∧ s.seq.list = .init ∧ advance s = (s.setReady true).done true) ∨
    (∃ v, advance s = s.done v) ∨ ∃ q : Seq, advance s = { s with seq := q } ∧ q.list = s.seq.list := by
  unfold advance
  cases hst : s.seq.st with
  | idle => exact .inr (.inr ⟨s.seq, rfl, rfl⟩)
  | data => exact .inr (.inl ⟨false, rfl⟩)
  | list =>
    dsimp only
    split
    · cases hl : s.seq.list with
      | init => exact .inl ⟨rfl, rfl, rfl⟩
      | wake | sleep => exact .inr (.inl ⟨false, rfl⟩)
    · exact .inr (.inr ⟨_, rfl, rfl⟩)
  | pos =>
    dsimp only
    split
    · exact .inr (.inr ⟨_, rfl, rfl⟩)
    · split
      · exact .inr (.inr ⟨_, rfl, rfl⟩)
      · split
        · exact .inr (.inr ⟨_, rfl, rfl⟩)
        · exact .inr (.inl ⟨false, rfl⟩)
  | stream =>
    dsimp only
    split
    · exact .inr (.inr ⟨_, rfl, rfl⟩)
    · split
      · exact .inr (.inr ⟨_, rfl, rfl⟩)
      · exact .inr (.inl ⟨false, rfl⟩)

@[simp] theorem advance_list (s : State) : (advance s).seq.list = s.seq.list := by
  obtain ⟨-, -, h⟩ | ⟨v, h⟩ | ⟨q, h, hq⟩ := advance_cases s
  · rw [h]; rfl
  · rw [h]; rfl
  · rw [h]; exact hq

/-- A list is walked to its last byte and not past it (44_sequencer.md R113). -/
theorem advance_seqLegal_list {s : State} (hst : s.seq.st = .list) (h : s.seqLegal = true) :
    (advance s).seqLegal = true := by
  have hlt := (seqLegal_list hst).1 h
  simp only [advance, hst]
  split
  · split <;> exact seqLegal_idle rfl
  · rename_i hlast
    have hrom := seqRom_length_lt s.params s.seq.list
    refine (seqLegal_list rfl).2 ?_
    simp only [BitVec.toNat_add, BitVec.toNat_ofNat]
    omega

/-- A triplet is walked to its third byte, and data follow only into the span it was started with (R114). -/
theorem advance_seqLegal_pos {s : State} (hst : s.seq.st = .pos) (h : s.seqLegal = true) :
    (advance s).seqLegal = true := by
  obtain ⟨-, hspan⟩ := (seqLegal_pos hst).1 h
  simp only [advance, hst]
  split
  · exact (seqLegal_pos rfl).2 ⟨by simp, hspan⟩
  · split
    · exact (seqLegal_pos rfl).2 ⟨by simp, hspan⟩
    · split
      · rename_i hstrm
        exact (seqLegal_stream rfl).2 ⟨hstrm, hspan hstrm⟩
      · exact seqLegal_idle rfl

/-- The column stops at the end of the span and the page at 7 (R116). -/
theorem advance_seqLegal_stream {s : State} (hst : s.seq.st = .stream) (h : s.seqLegal = true) :
    (advance s).seqLegal = true := by
  obtain ⟨hstrm, hpg, hle, hlast⟩ := (seqLegal_stream hst).1 h
  simp only [advance, hst]
  split
  · rename_i hcol
    have hne : s.seq.col.toNat ≠ s.seq.last.toNat := fun he => hcol (BitVec.eq_of_toNat_eq he)
    refine (seqLegal_stream rfl).2 ⟨hstrm, hpg, ?_, hlast⟩
    simp only [BitVec.toNat_add, BitVec.toNat_ofNat]
    omega
  · split
    · rename_i hpage
      have hne : s.seq.pg.toNat ≠ 7 := fun he => hpage.2 (BitVec.eq_of_toNat_eq he)
      refine (seqLegal_pos rfl).2 ⟨by simp, fun _ => ⟨?_, Nat.zero_le _, hlast⟩⟩
      simp only [BitVec.toNat_add, BitVec.toNat_ofNat]
      omega
    · exact seqLegal_idle rfl

/-- The update of `SEQ` after a bus write keeps a legal position legal (44_sequencer.md R113 to R116). -/
theorem advance_keeps_seqLegal {s : State} (h : s.seqLegal = true) : (advance s).seqLegal = true := by
  cases hst : s.seq.st with
  | idle => simpa [advance, hst] using h
  | list => exact advance_seqLegal_list hst h
  | pos => exact advance_seqLegal_pos hst h
  | stream => exact advance_seqLegal_stream hst h
  | data => simpa [advance, hst] using seqLegal_idle rfl

/-- Only the end of INIT's list writes READY (10_state.md R13). -/
theorem advance_ready {s : State} (h : s.seq.list = .init → s.seq.st ≠ .list) : (advance s).ready = s.ready := by
  obtain ⟨hst, hl, -⟩ | ⟨v, ha⟩ | ⟨q, ha, -⟩ := advance_cases s
  · exact absurd hst (h hl)
  · rw [ha]; rfl
  · rw [ha]

/-- An update of `SEQ` gives a response only where it ends the operation. -/
theorem advance_rsp {s : State} (h : (advance s).rsp.valid = true) (hs : s.rsp.valid = true → s.seq.st = .idle) :
    (advance s).seq.st = .idle := by
  obtain ⟨-, -, ha⟩ | ⟨v, ha⟩ | ⟨q, ha, -⟩ := advance_cases s
  · rw [ha]; rfl
  · rw [ha]; rfl
  · have hidle : s.seq.st = .idle := hs (by rw [ha] at h; exact h)
    simp [advance, hidle]

end Sys2Proof.Machine
end

section
/-! Legal states: every step keeps them. A state with no bus write pending is settled; every step but a wait for the
transport ends in one. -/

namespace Sys2Proof.Machine

/-- A legal state with no bus write pending. -/
structure State.Settled (s : State) : Prop where
  gram : s.gram.wf = true
  seq : s.seqLegal = true
  bus : s.bus.valid = false
  rsp : s.rsp.valid = true → s.seq.st = .idle

theorem legal_iff {s : State} :
    s.legal = true ↔ s.gram.wf = true ∧ s.seqLegal = true ∧ s.portLegal = true ∧
      (s.seq.st = .idle → s.bus.valid = false) ∧ (s.rsp.valid = true → s.seq.st = .idle) := by
  simp [State.legal, and_assoc, or_iff_not_imp_left]

theorem State.Settled.legal {s : State} (h : s.Settled) : s.legal = true := by
  have hport : s.portLegal = true := by
    unfold State.portLegal
    split <;> simp [h.bus]
  exact legal_iff.2 ⟨h.gram, h.seq, hport, fun _ => h.bus, h.rsp⟩

/-- A legal idle state is settled (44_sequencer.md R110). -/
theorem settled_of_legal_idle {s : State} (h : s.legal = true) (hidle : s.seq.st = .idle) : s.Settled := by
  obtain ⟨hgram, hseq, -, hbus, hrsp⟩ := legal_iff.1 h
  exact ⟨hgram, hseq, hbus hidle, hrsp⟩

/-- A taken bus write settles a legal state, in the middle of an operation or not. -/
theorem settled_deliver {s : State} (h : s.legal = true) (e : BusEvent) : (s.deliver e).Settled := by
  obtain ⟨hgram, hseq, -⟩ := legal_iff.1 h
  exact ⟨hgram, hseq, rfl, nofun⟩

theorem State.Settled.deliverAll {s : State} (h : s.Settled) (es : List BusEvent) : (s.deliverAll es).Settled := by
  induction es generalizing s with
  | nil => simpa using h
  | cons e es ih => rw [State.deliverAll_cons]; exact ih (settled_deliver h.legal e)

theorem State.Settled.advance {s : State} (h : s.Settled) : (advance s).Settled where
  gram := by simpa using h.gram
  seq := advance_keeps_seqLegal h.seq
  bus := by simpa using h.bus
  rsp := fun hv => advance_rsp hv h.rsp

theorem State.Settled.done {s : State} (h : s.Settled) (v : Bool) : (s.done v).Settled :=
  ⟨h.gram, seqLegal_idle rfl, h.bus, fun _ => rfl⟩

theorem State.Settled.setReady {s : State} (h : s.Settled) (v : Bool) : (s.setReady v).Settled :=
  ⟨h.gram, h.seq, h.bus, h.rsp⟩

theorem State.Settled.quiet {s : State} (h : s.Settled) : s.quiet.Settled :=
  ⟨h.gram, h.seq, h.bus, nofun⟩

theorem State.Settled.latch {s : State} (h : s.Settled) (w : Word) (rest : List Word) : (s.latch w rest).Settled :=
  ⟨h.gram, h.seq, h.bus, nofun⟩

theorem State.Settled.with_gram {s : State} (h : s.Settled) {g : Memory} (hg : g.wf = true) :
    State.Settled { s with gram := g } :=
  ⟨hg, h.seq, h.bus, h.rsp⟩

theorem State.Settled.with_seq {s : State} {q : Seq} (h : s.Settled) (hv : s.rsp.valid = false)
    (hq : State.seqLegal { s with seq := q } = true) : State.Settled { s with seq := q } :=
  ⟨h.gram, hq, h.bus, by simp [hv]⟩

theorem settled_applyReset (s : State) : (applyReset s).Settled :=
  ⟨rfl, seqLegal_idle rfl, rfl, nofun⟩

/-- The cell of a pixel inside the display lies inside GRAM. -/
theorem cellAddr_pixel_lt {x y : Byte} (h : pixelInRange x y = true) : cellAddr (pageOf y) x.toNat < 1024 := by
  obtain ⟨hx, hy⟩ : x.toNat < 128 ∧ y.toNat < 64 := by simpa [pixelInRange] using h
  exact cellAddr_lt (by unfold pageOf; omega) hx

/-- A table row run from a settled state leaves a settled state. -/
theorem Effect.settled {i : Instr} {s t : State} (h : Effect s i t) (hs : s.Settled) : t.Settled := by
  cases h with
  | sent _ es => exact hs.deliverAll es
  | finished _ es v => exact (hs.deliverAll es).done v
  | initialised es => exact ((hs.deliverAll es).setReady _).done _
  | wrotePixel x y color v hin => exact (hs.with_gram (Memory.wf_write hs.gram (cellAddr_pixel_lt hin))).done false
  | cleared => exact (hs.with_gram rfl).done false

/-- Waiting for the transport keeps a busy state legal: the event that stands on the port is the position's
(44_sequencer.md R117). -/
theorem legal_present {s : State} {e : BusEvent} (h : s.legal = true) (hbusy : s.seq.st ≠ .idle)
    (he : seqEvent s = .ok e) : (s.present e).legal = true := by
  obtain ⟨hgram, hseq, -⟩ := legal_iff.1 h
  have hport : (s.present e).portLegal = true := by simp [State.portLegal, he]
  exact legal_iff.2 ⟨hgram, hseq, hport, fun hidle => absurd hidle hbusy, nofun⟩

theorem step_keeps_legal {s t : State} (h : s.legal = true) (hstep : step s = .next t) : t.legal = true := by
  cases step_cases hstep with
  | resets => exact (settled_applyReset s).legal
  | waits _ hbusy _ he => exact legal_present h hbusy he
  | writesOne => exact (settled_deliver h _).advance.legal
  | writesTwo =>
    rw [State.deliverAll_cons]
    exact ((settled_deliver h _).deliverAll _).advance.advance.legal
  | rests _ hidle => exact (settled_of_legal_idle h hidle).quiet.legal
  | ignores hp => exact (((settled_of_legal_idle h hp.idle).latch _ _).done false).legal
  | runs hp _ hx => exact ((exec_effect hx).settled ((settled_of_legal_idle h hp.idle).latch _ _)).legal
  | starts hp _ _ hlegal =>
    exact (((settled_of_legal_idle h hp.idle).latch _ _).with_seq rfl hlegal).legal

/-- Settles O47: each case of a step but the wait for the transport ends in a settled state. -/
theorem everyStepKeepsTheStateLegal : Obligations.EveryStepKeepsTheStateLegal :=
  fun _ _ => step_keeps_legal

/-- Settles O46. -/
theorem resetStateIsLegal : Obligations.ResetStateIsLegal :=
  (State.Settled.mk State.reset_gram_wf (seqLegal_idle rfl) rfl nofun).legal

end Sys2Proof.Machine
end

section
/-! What a step leaves alone: who writes GRAM and READY, how TRACE grows, and what no step writes at all. -/

namespace Sys2Proof.Machine

theorem Effect.gram {i : Instr} {s t : State} (h : Effect s i t) :
    t.gram = s.gram ∨ i = .clear ∨ ∃ x y color, i = .pixset x y color := by
  cases h with
  | sent | finished | initialised => exact .inl rfl
  | wrotePixel x y color => exact .inr (.inr ⟨x, y, color, rfl⟩)
  | cleared => exact .inr (.inl rfl)

theorem Effect.ready {i : Instr} {s t : State} (h : Effect s i t) : t.ready = s.ready ∨ i = .init := by
  cases h with
  | sent | finished | wrotePixel | cleared => exact .inl rfl
  | initialised => exact .inr rfl

/-- Bus writes append to TRACE: the events, or nothing over an invalid transport (20_memory.md R38). -/
theorem deliverAll_trace_append (es : List BusEvent) (s : State) :
    ∃ es' : List BusEvent, (s.deliverAll es).trace = s.trace ++ es' := by
  rw [State.deliverAll_trace]
  split
  · exact ⟨es, rfl⟩
  · exact ⟨[], (List.append_nil _).symm⟩

theorem Effect.trace {i : Instr} {s t : State} (h : Effect s i t) :
    ∃ es : List BusEvent, t.trace = s.trace ++ es := by
  cases h with
  | sent _ es | finished _ es | initialised es => exact deliverAll_trace_append es s
  | wrotePixel | cleared => exact ⟨[], (List.append_nil _).symm⟩

/-- `t` has the inputs, the parameters and the grain of `s`. -/
def State.SameInputs (s t : State) : Prop :=
  t.busOk = s.busOk ∧ t.busDone = s.busDone ∧ t.params = s.params ∧ t.grain = s.grain

theorem Effect.sameInputs {i : Instr} {s t : State} (h : Effect s i t) : s.SameInputs t := by
  cases h <;> exact ⟨rfl, rfl, rfl, rfl⟩

theorem advance_sameInputs (s : State) : s.SameInputs (advance s) := by
  simp [State.SameInputs]

theorem step_sameInputs {s t : State} (h : step s = .next t) : s.SameInputs t := by
  cases step_cases h with
  | resets | waits | rests | ignores | starts => exact ⟨rfl, rfl, rfl, rfl⟩
  | writesOne => exact advance_sameInputs (s.deliver _)
  | writesTwo => simp [State.SameInputs]
  | runs _ _ hx => exact (exec_effect hx).sameInputs

/-- Settles O54, by the cases of a step. -/
theorem inputsAndParametersStay : Obligations.InputsAndParametersStay :=
  fun _ _ => step_sameInputs

/-- Settles O49: a step that is no reset writes GRAM only by running an accepted request whose effect does. -/
theorem onlyPixsetAndClearWriteGram : Obligations.OnlyPixsetAndClearWriteGram := by
  intro s t hrst h hne
  cases step_cases h with
  | resets hrst' => simp [hrst] at hrst'
  | waits | rests | ignores | starts => exact absurd rfl hne
  | writesOne | writesTwo => exact absurd (by simp) hne
  | runs hp hw hx => exact ⟨hp.idle, _, _, _, hp.requests, hw, (exec_effect hx).gram.resolve_left hne⟩

theorem execInit_result {s t : State} (h : execInit s = .next t) : t.ready = s.busOk ∧ t.rsp.bit = s.busOk := by
  obtain ⟨-, h⟩ := whenIdle_eq_next.1 h
  split at h <;> rename_i hok
  · obtain ⟨u, -, h⟩ := andThen_eq_next.1 h
    injection h with h
    simp [← h, hok]
  · injection h with h
    simp [← h, hok]

/-- A step that is no reset writes READY only in INIT. -/
theorem step_writes_ready {s t : State} (hrst : s.rst = false) (h : step s = .next t) (hne : t.ready ≠ s.ready) :
    (s.seq.st = .idle ∧ ∃ w rest, s.requests = w :: rest ∧ decodeRequest w = .ok .init) ∨
    (s.seq.st = .list ∧ s.seq.list = .init) := by
  by_contra hno
  obtain ⟨hrequest, hlist⟩ := not_or.1 hno
  have hpos : s.seq.list = .init → s.seq.st ≠ .list := fun hl hst => hlist ⟨hst, hl⟩
  cases step_cases h with
  | resets hrst' => simp [hrst] at hrst'
  | waits | rests | ignores | starts => exact hne rfl
  | writesOne => exact hne (advance_ready hpos)
  | writesTwo _ hst =>
    have hl : s.seq.list ≠ .init := fun hl => hpos hl hst
    refine hne ((advance_ready fun hl' => absurd ?_ hl).trans (advance_ready hpos))
    simpa using hl'
  | runs hp hw hx =>
    have hinit := (exec_effect hx).ready.resolve_left hne
    exact hrequest ⟨hp.idle, _, _, hp.requests, hinit ▸ hw⟩

/-- Settles O50. -/
theorem onlyInitWritesReady : Obligations.OnlyInitWritesReady :=
  ⟨fun _ _ => step_writes_ready, fun _ _ => execInit_result⟩

/-- A step that is no reset of an idle DCB appends to TRACE. -/
theorem step_trace_append {s t : State} (h : step s = .next t) (hne : ¬(s.rst = true ∧ s.seq.st = .idle)) :
    ∃ es : List BusEvent, t.trace = s.trace ++ es := by
  cases step_cases h with
  | resets hrst => exact ⟨cutShort s, applyReset_trace_busy fun hidle => hne ⟨hrst, hidle⟩⟩
  | waits | rests | ignores | starts => exact ⟨[], (List.append_nil _).symm⟩
  | writesOne => simpa [State.deliverAll_one] using deliverAll_trace_append [_] s
  | writesTwo => simpa only [advance_trace] using deliverAll_trace_append _ s
  | runs _ _ hx => exact (exec_effect hx).trace

/-- Settles O52. -/
theorem traceIsOnlyAppendedTo : Obligations.TraceIsOnlyAppendedTo := by
  intro s t h
  refine ⟨step_trace_append h, fun hrst hidle => ?_⟩
  have ht : applyReset s = t := by simpa [step, hrst] using h
  exact ht ▸ applyReset_trace_idle hidle

/-- A state whose GRAM lists no cell reads zero everywhere (10_state.md R12). -/
theorem cell_of_gram_nil {s : State} (h : s.gram = []) (p c : Nat) : s.cell p c = 0x00#8 := by
  simp [State.cell, h]

/-- Settles O43: reset and CLEAR leave no cell listed. -/
theorem everyCellIsZeroAfterResetAndClear : Obligations.EveryCellIsZeroAfterResetAndClear := by
  refine ⟨fun p c _ _ => cell_of_gram_nil rfl p c, fun s t hrst h p c _ _ => ?_, fun s t h p c _ _ => ?_⟩
  · have ht : applyReset s = t := by simpa [step, hrst] using h
    exact cell_of_gram_nil (ht ▸ rfl) p c
  · obtain ⟨-, rfl⟩ := execClear_eq_next.1 h
    exact cell_of_gram_nil rfl p c

end Sys2Proof.Machine
end

section
/-! No operation reads READY: running a table row commutes with writing READY beforehand (10_state.md R13). -/

namespace Sys2Proof.Machine

theorem busWrites_setReady {es : List BusEvent} {s t : State} (h : busWrites es s = .next t) (b : Bool) :
    busWrites es (s.setReady b) = .next (t.setReady b) := by
  obtain ⟨hd, rfl⟩ := busWrites_eq_next.1 h
  exact busWrites_eq_next.2 ⟨hd, rfl⟩

theorem emitAndFinish_setReady {es : List BusEvent} {s t : State} (h : emitAndFinish es s = .next t) (b : Bool) :
    emitAndFinish es (s.setReady b) = .next (t.setReady b) := by
  obtain ⟨hd, rfl⟩ := emitAndFinish_eq_next.1 h
  exact emitAndFinish_eq_next.2 ⟨hd, rfl⟩

theorem done_setReady {s t : State} {v : Bool} (h : (.next (s.done v) : Result) = .next t) (b : Bool) :
    (.next ((s.setReady b).done v) : Result) = .next (t.setReady b) := by
  injection h with h
  exact h ▸ rfl

theorem execRefrange_setReady {page a z : Byte} {s t : State} (h : execRefrange page a z s = .next t) (b : Bool) :
    execRefrange page a z (s.setReady b) = .next (t.setReady b) := by
  obtain ⟨hidle, h⟩ := whenIdle_eq_next.1 h
  refine whenIdle_eq_next.2 ⟨hidle, ?_⟩
  split at h <;> rename_i hvalid
  · rw [if_pos hvalid]
    split at h <;> rename_i haz
    · rw [if_pos haz]
      exact emitAndFinish_setReady h b
    · rw [if_neg haz, State.setReady_params]
      cases hp : s.params.rangeReversed <;> rw [hp] at h
      case setposOnly => exact emitAndFinish_setReady h b
      case noop => exact done_setReady h b
      case refuse => cases h
  · rw [if_neg hvalid]
    exact done_setReady h b

theorem execPixset_setReady {x y : Byte} {color : Color} {s t : State} (h : execPixset x y color s = .next t)
    (b : Bool) : execPixset x y color (s.setReady b) = .next (t.setReady b) := by
  obtain ⟨hidle, h⟩ := whenIdle_eq_next.1 h
  refine whenIdle_eq_next.2 ⟨hidle, ?_⟩
  split at h <;> rename_i hin
  · rw [if_pos hin]
    injection h with h
    exact h ▸ rfl
  · rw [if_neg hin]
    exact done_setReady h b

theorem execPixget_setReady {x y : Byte} {s t : State} (h : execPixget x y s = .next t) (b : Bool) :
    execPixget x y (s.setReady b) = .next (t.setReady b) := by
  obtain ⟨hidle, h⟩ := whenIdle_eq_next.1 h
  refine whenIdle_eq_next.2 ⟨hidle, ?_⟩
  split at h <;> rename_i hin
  · rw [if_pos hin]
    exact done_setReady h b
  · cases h

/-- INIT overwrites READY, so it does not matter what READY was. -/
theorem execInit_setReady {s t : State} (h : execInit s = .next t) (b : Bool) :
    execInit (s.setReady b) = .next t := by
  obtain ⟨hidle, h⟩ := whenIdle_eq_next.1 h
  refine whenIdle_eq_next.2 ⟨hidle, ?_⟩
  rw [State.setReady_busOk]
  split at h <;> rename_i hok
  · rw [if_pos hok]
    obtain ⟨u, hu, h⟩ := andThen_eq_next.1 h
    exact andThen_eq_next.2 ⟨u.setReady b, busWrites_setReady hu b, h⟩
  · rw [if_neg hok]
    exact h

/-- A table row other than INIT does the same with another READY, and leaves that READY. -/
theorem exec_setReady {i : Instr} {s t : State} (hi : i ≠ .init) (h : exec i s = .next t) (b : Bool) :
    exec i (s.setReady b) = .next (t.setReady b) := by
  by_cases hrow : i.opcode = none
  · rw [exec_busRow hrow] at h ⊢
    exact busWrites_setReady h b
  · cases i with
    | init => exact absurd rfl hi
    | refrange => exact execRefrange_setReady h b
    | pixset => exact execPixset_setReady h b
    | pixget => exact execPixget_setReady h b
    | clear =>
      obtain ⟨hidle, rfl⟩ := execClear_eq_next.1 h
      exact execClear_eq_next.2 ⟨hidle, rfl⟩
    | setpos | data | wake | sleep =>
      obtain ⟨hidle, h⟩ := whenIdle_eq_next.1 h
      exact whenIdle_eq_next.2 ⟨hidle, emitAndFinish_setReady h b⟩
    | refresh =>
      obtain ⟨hidle, h⟩ := execRefresh_eq_next.1 h
      exact execRefresh_eq_next.2 ⟨hidle, emitAndFinish_setReady h b⟩
    | _ => exact absurd rfl hrow

/-- Settles O51. -/
theorem nothingIsGatedOnReady : Obligations.NothingIsGatedOnReady := by
  intro i s t b h
  split
  · rename_i hi
    subst hi
    exact execInit_setReady h b
  · rename_i hi
    exact exec_setReady hi h b

end Sys2Proof.Machine
end

section
/-! A table row's word, put where the next step fetches it, is fetched and run (10_state.md R17, 44_sequencer.md R111;
log entries 1, 14, 15). -/

namespace Sys2Proof.Machine

/-! ## Decoded bus words -/

theorem decodeBus_registerSelect {w : BitVec 16} {i : Instr} (h : decodeBus w = .ok i) :
    w.extractLsb' 8 8 = Tag.cmd.code ∨ w.extractLsb' 8 8 = Tag.data.code := by
  unfold decodeBus at h
  split at h
  · rename_i j hj
    have hfixed : ∀ row ∈ fixedBusRows, row.1.extractLsb' 8 8 = Tag.cmd.code := by decide
    obtain ⟨l₁, l₂, heq, -⟩ := List.lookup_eq_some_iff.1 hj
    exact .inl (hfixed (w, j) (by simp [heq]))
  · dsimp only at h
    split at h
    · rename_i hdata
      exact .inr hdata
    · split at h
      · cases h
      · rename_i hcmd
        exact .inl (not_not.1 hcmd)

/-- A bus word that decodes is the word of a bus event (30_encoding.md R56). -/
theorem decodeBus_event {w : BitVec 16} {i : Instr} (h : decodeBus w = .ok i) : ∃ e : BusEvent, e.word = w := by
  have hw : w.extractLsb' 8 8 ++ w.extractLsb' 0 8 = w :=
    (BitVec.extractLsb'_append_extractLsb'_eq_extractLsb' rfl).trans BitVec.extractLsb'_eq_self
  obtain hrs | hrs := decodeBus_registerSelect h
  · exact ⟨cmdEvent (w.extractLsb' 0 8), by rw [BusEvent.word, cmdEvent, ← hrs, hw]⟩
  · exact ⟨dataEvent (w.extractLsb' 0 8), by rw [BusEvent.word, dataEvent, ← hrs, hw]⟩

/-- A pair of bus words that decodes is listed in the table of two-event rows. -/
theorem decodeBusPair_mem {w : Word} {i : Instr} (h : decodeBusPair w = .ok i) : (w, i) ∈ pairBusRows := by
  unfold decodeBusPair at h
  split at h
  · rename_i j hj
    injection h with h
    obtain ⟨l₁, l₂, heq, -⟩ := List.lookup_eq_some_iff.1 hj
    simp [heq, h]
  · cases h

/-! ## The position of a bus row -/

/-- A bus row makes as many bus writes as it has events. -/
theorem opBusWrites_busRow {i : Instr} (h : i.opcode = none) (s : State) :
    opBusWrites i s = (rowEvents s.params i).length := by
  cases i with
  | init | setpos | data | wake | sleep | refresh | refrange | pixset | clear | pixget => cases h
  | _ => rfl

/-- The position of a bus row emits the row's first event. -/
theorem seqEvent_atRow {i : Instr} (h : i.opcode = none) (s : State) :
    (seqEvent (s.atRow i)).toOption = (rowEvents s.params i).head? := by
  cases i with
  | init | setpos | data | wake | sleep | refresh | refrange | pixset | clear | pixget => cases h
  | busPagesel page =>
    have hb : pageSel (page.setWidth 8) = 0b10110#5 ++ page := by revert page; decide
    exact congrArg (fun b => some (cmdEvent b)) hb
  | busColhi x =>
    have hb : colHi (x ++ 0#4) = 0b0001#4 ++ x := by revert x; decide
    exact congrArg (fun b => some (cmdEvent b)) hb
  | busCollo x =>
    have hb : colLo (0#4 ++ x) = 0b0000#4 ++ x := by revert x; decide
    exact congrArg (fun b => some (cmdEvent b)) hb
  | busData b => exact congrArg (fun b => some (dataEvent b)) (aField_mkRequest _ _ _ _)
  | _ => rfl

/-- Outside a list the row fetched is that of the position's one event. -/
theorem fetchRow_of_event {s : State} {e : BusEvent} {i : Instr} (hst : s.seq.st ≠ .list) (he : seqEvent s = .ok e)
    (hi : decodeBus e.word = .ok i) : fetchRow s = some (i, 1) := by
  unfold fetchRow
  cases h : s.seq.st with
  | list => exact absurd h hst
  | idle | pos | stream | data => simp [he, hi]

/-- At the list position of a bus row that row is fetched, the one-event rows being no part of a pair there. -/
theorem fetchRow_atRow_list {i : Instr} {s : State} (h : i.opcode = none) (hst : (s.atRow i).seq.st = .list) :
    fetchRow (s.atRow i) = some (i, opBusWrites i s) := by
  cases i with
  | init | setpos | data | wake | sleep | refresh | refrange | pixset | clear | pixget => cases h
  | busPagesel | busColhi | busCollo | busData => cases hst
  | _ => rfl

theorem fetchRow_atRow_decodeBus {w : BitVec 16} {i : Instr} (h : decodeBus w = .ok i) (s : State) :
    i.opcode = none ∧ fetchRow (s.atRow i) = some (i, opBusWrites i s) := by
  obtain ⟨e, rfl⟩ := decodeBus_event h
  obtain ⟨hrow, hevents⟩ := decodeBus_row h
  refine ⟨hrow, ?_⟩
  by_cases hst : (s.atRow i).seq.st = .list
  · exact fetchRow_atRow_list hrow hst
  · have he := seqEvent_atRow hrow s
    rw [opBusWrites_busRow hrow, hevents]
    rw [hevents] at he
    cases hq : seqEvent (s.atRow i) with
    | error => rw [hq] at he; cases he
    | ok e' =>
      rw [hq] at he
      injection he with he
      exact fetchRow_of_event hst hq (he ▸ h)

theorem fetchRow_atRow_decodeBusPair {w : Word} {i : Instr} (h : decodeBusPair w = .ok i) (s : State) :
    i.opcode = none ∧ fetchRow (s.atRow i) = some (i, opBusWrites i s) := by
  have hmem := decodeBusPair_mem h
  have hrow : ∀ row ∈ pairBusRows, row.2.opcode = none := by decide
  have hlist : ∀ row ∈ pairBusRows, (s.atRow row.2).seq.st = .list := by
    simp [pairBusRows, State.atRow, State.atList]
  exact ⟨hrow _ hmem, fetchRow_atRow_list (hrow _ hmem) (hlist _ hmem)⟩

/-! ## The step from there -/

@[simp] theorem State.atRow_rst (i : Instr) (s : State) : (s.atRow i).rst = s.rst := by
  cases i <;> rfl

@[simp] theorem State.atRow_grain (i : Instr) (s : State) : (s.atRow i).grain = s.grain := by
  cases i <;> rfl

theorem State.atRow_busy {i : Instr} (h : i.opcode = none) (s : State) : (s.atRow i).busy = true := by
  cases i with
  | init | setpos | data | wake | sleep | refresh | refrange | pixset | clear | pixget => cases h
  | _ => rfl

/-- At the operation grain the step of a busy DCB runs the row it fetches, then moves `SEQ` past its bus writes. -/
theorem step_fetchRow {s : State} {i : Instr} {n : Nat} (hrst : s.rst = false) (hgrain : s.grain = .operation)
    (hbusy : s.busy = true) (hrow : fetchRow s = some (i, n)) :
    step s = andThen (exec i s) fun t => .next (advanceBy n t) := by
  unfold step busyStep rowStep
  rw [hrst, hbusy, hgrain, hrow]
  rfl

/-- At the operation grain the step of an idle DCB runs the request put on its port. -/
theorem step_atRequest {s : State} {w : Word} {i : Instr} (hrst : s.rst = false) (hgrain : s.grain = .operation)
    (hidle : s.seq.st = .idle) (hw : decodeRequest w = .ok i) :
    step (s.atRequest w) = exec i { s with req := w, rsp := { s.rsp with valid := false } } := by
  unfold State.atRequest
  rw [Seq.set_idle hidle]
  simp only [step, hrst, State.busy_eq, hidle, acceptRequest, hw, hgrain]
  rfl

/-- A word of the table is put at its bus row's position, where that row is fetched, or on the request port. -/
theorem placeWord_cases {nbits w : Nat} {i : Instr} (h : decodeTableWord nbits w = some i) (s : State) :
    (i.opcode = none ∧ s.placeWord nbits w = s.atRow i ∧ fetchRow (s.atRow i) = some (i, opBusWrites i s)) ∨
    (decodeRequest (BitVec.ofNat 32 w) = .ok i ∧ s.placeWord nbits w = s.atRequest (BitVec.ofNat 32 w)) := by
  unfold decodeTableWord at h
  unfold State.placeWord
  split at h <;> rename_i hn
  · rw [if_pos hn]
    cases hd : decodeBus (BitVec.ofNat 16 w) with
    | error e => rw [hd] at h; cases h
    | ok j =>
      rw [hd] at h
      injection h with h
      subst h
      obtain ⟨hrow, hfetch⟩ := fetchRow_atRow_decodeBus hd s
      exact .inl ⟨hrow, rfl, hfetch⟩
  · rw [if_neg hn]
    cases hd : decodeBusPair (BitVec.ofNat 32 w) with
    | ok j =>
      rw [hd] at h
      injection h with h
      subst h
      obtain ⟨hrow, hfetch⟩ := fetchRow_atRow_decodeBusPair hd s
      exact .inl ⟨hrow, rfl, hfetch⟩
    | error e =>
      rw [hd] at h
      dsimp only at h
      cases hr : decodeRequest (BitVec.ofNat 32 w) with
      | error e => rw [hr] at h; cases h
      | ok j =>
        rw [hr] at h
        injection h with h
        subst h
        exact .inr ⟨rfl, rfl⟩

/-- A table word placed at the operation grain with no reset is fetched and run: a request from an idle DCB, a bus row
from its position. -/
theorem placeWord_runs {u : State} {nbits w : Nat} {i : Instr} (hrst : u.rst = false) (hgrain : u.grain = .operation)
    (h : decodeTableWord nbits w = some i) :
    (i.opcode.isSome = true → u.seq.st = .idle →
      step (u.placeWord nbits w) =
        exec i { u with req := BitVec.ofNat 32 w, rsp := { u.rsp with valid := false } }) ∧
    (i.opcode = none →
      (u.placeWord nbits w).busy = true ∧ fetchRow (u.placeWord nbits w) = some (i, opBusWrites i u) ∧
      step (u.placeWord nbits w) =
        andThen (exec i (u.placeWord nbits w)) fun t => .next (advanceBy (opBusWrites i u) t)) := by
  obtain ⟨hrow, hplace, hfetch⟩ | ⟨hw, hplace⟩ := placeWord_cases h u <;> rw [hplace]
  · have hbusy := State.atRow_busy hrow u
    have hstep := step_fetchRow ((State.atRow_rst i u).trans hrst) ((State.atRow_grain i u).trans hgrain) hbusy hfetch
    exact ⟨fun hop => absurd hop (by simp [hrow]), fun _ => ⟨hbusy, hfetch, hstep⟩⟩
  · refine ⟨fun _ hidle => step_atRequest hrst hgrain hidle hw, fun hrow => ?_⟩
    simp [decodeRequest_opcode hw] at hrow

/-- Settles O29: the number of bus writes of a row does not depend on the placing. -/
theorem fetchWordIsFetchedAndRun : Obligations.FetchWordIsFetchedAndRun := by
  intro s nbits w i h
  obtain ⟨hrequest, hrow⟩ := placeWord_runs (u := { s with rst := false, grain := .operation }) rfl rfl h
  refine ⟨hrequest, fun ho => ?_⟩
  simpa only [State.withFetchWord, opBusWrites_busRow ho] using hrow ho

end Sys2Proof.Machine
end

section
/-! An invalid transport delivers nothing and changes nothing else: running a table row other than INIT over it is
running the row over a valid one and taking back what was delivered (20_memory.md R38, R131). -/

namespace Sys2Proof.Machine

/-- The same state over a valid transport. -/
def State.overValid (s : State) : State := { s with busOk := true }

@[simp] theorem State.overValid_busDone (s : State) : s.overValid.busDone = s.busDone := rfl
@[simp] theorem State.overValid_params (s : State) : s.overValid.params = s.params := rfl

/-- The same state over an invalid transport, with the given TRACE. -/
def State.undelivered (trace : List BusEvent) (s : State) : State := { s with busOk := false, trace := trace }

/-- No bus event reaches TRACE over an invalid transport (20_memory.md R38). -/
theorem Effect.trace_invalid {i : Instr} {s t : State} (h : Effect s i t) (hok : s.busOk = false) :
    t.trace = s.trace := by
  cases h with
  | sent | finished | initialised => simp [hok]
  | wrotePixel | cleared => rfl

theorem applyReset_trace_invalid {s : State} (hok : s.busOk = false) :
    (applyReset s).trace = if s.seq.st = .idle then [] else s.trace := by
  split <;> rename_i hst
  · exact applyReset_trace_idle hst
  · obtain hcut | ⟨hok', -⟩ := cutShort_cases s
    · rw [applyReset_trace_busy hst, hcut, List.append_nil]
    · simp [hok] at hok'

/-- Over an invalid transport TRACE stays, or is emptied by a reset of an idle DCB. -/
theorem step_trace_invalid {s t : State} (hok : s.busOk = false) (h : step s = .next t) :
    t.trace = if s.rst = true ∧ s.seq.st = .idle then [] else s.trace := by
  cases step_cases h with
  | resets hrst => simpa [hrst] using applyReset_trace_invalid hok
  | waits hrst | rests hrst => simp [hrst]
  | writesOne hrst | writesTwo hrst => simp [hrst, hok]
  | ignores hp | starts hp =>
    obtain ⟨hrst, -⟩ := hp
    simp [hrst]
  | runs hp _ hx =>
    obtain ⟨hrst, -⟩ := hp
    simpa [hrst] using (exec_effect hx).trace_invalid hok

/-- An answer with nothing delivered: TRACE as given, the transport invalid. -/
def withoutDelivery (trace : List BusEvent) (r : Result) : Result :=
  andThen r fun u => .next (u.undelivered trace)

section
variable {s : State} (hok : s.busOk = false)
include hok

theorem State.undelivered_overValid : s.overValid.undelivered s.trace = s := by
  cases s; cases hok; rfl

theorem State.undelivered_deliverAll (es : List BusEvent) :
    (s.overValid.deliverAll es).undelivered s.trace = s.deliverAll es := by
  cases s; cases hok; rfl

theorem done_withoutDelivery (v : Bool) :
    (.next (s.done v) : Result) = withoutDelivery s.trace (.next (s.overValid.done v)) :=
  congrArg (fun u : State => (.next (u.done v) : Result)) (State.undelivered_overValid hok).symm

theorem busWrites_withoutDelivery (es : List BusEvent) :
    busWrites es s = withoutDelivery s.trace (busWrites es s.overValid) := by
  unfold busWrites
  rw [State.overValid_busDone]
  split
  · exact congrArg Host.Outcome.next (State.undelivered_deliverAll hok es).symm
  · rfl

theorem emitAndFinish_withoutDelivery (es : List BusEvent) :
    emitAndFinish es s = withoutDelivery s.trace (emitAndFinish es s.overValid) := by
  unfold emitAndFinish
  rw [busWrites_withoutDelivery hok]
  cases busWrites es s.overValid <;> rfl

omit hok in
/-- The guard of a request operation does not read `bus_ok`. -/
theorem whenIdle_withoutDelivery {f : State → Result} (h : f s = withoutDelivery s.trace (f s.overValid)) :
    whenIdle s f = withoutDelivery s.trace (whenIdle s.overValid f) := by
  by_cases hidle : s.seq.st = .idle
  · rwa [whenIdle_idle hidle, whenIdle_idle (s := s.overValid) hidle]
  · rw [whenIdle_busy hidle, whenIdle_busy (s := s.overValid) hidle]
    rfl

theorem execRefrange_withoutDelivery (page a z : Byte) :
    execRefrange page a z s = withoutDelivery s.trace (execRefrange page a z s.overValid) := by
  refine whenIdle_withoutDelivery ?_
  split
  · split
    · exact emitAndFinish_withoutDelivery hok _
    · rw [State.overValid_params]
      cases s.params.rangeReversed
      case setposOnly => exact emitAndFinish_withoutDelivery hok _
      case noop => exact done_withoutDelivery hok false
      case refuse => rfl
  · exact done_withoutDelivery hok false

theorem execRefresh_withoutDelivery : execRefresh s = withoutDelivery s.trace (execRefresh s.overValid) :=
  whenIdle_withoutDelivery (emitAndFinish_withoutDelivery hok (refreshEvents s.gram))

theorem execPixset_withoutDelivery (x y : Byte) (color : Color) :
    execPixset x y color s = withoutDelivery s.trace (execPixset x y color s.overValid) := by
  refine whenIdle_withoutDelivery ?_
  split
  · exact done_withoutDelivery (s := s.setCell _ _ _) hok false
  · exact done_withoutDelivery hok false

theorem execPixget_withoutDelivery (x y : Byte) :
    execPixget x y s = withoutDelivery s.trace (execPixget x y s.overValid) := by
  refine whenIdle_withoutDelivery ?_
  split
  · exact done_withoutDelivery hok _
  · rfl

theorem execClear_withoutDelivery : execClear s = withoutDelivery s.trace (execClear s.overValid) :=
  whenIdle_withoutDelivery (done_withoutDelivery (s := { s with gram := [] }) hok false)

/-- A table row other than INIT does over an invalid transport what it does over a valid one, but for the delivery. -/
theorem exec_withoutDelivery {i : Instr} (hi : i ≠ .init) :
    exec i s = withoutDelivery s.trace (exec i s.overValid) := by
  by_cases hrow : i.opcode = none
  · rw [exec_busRow hrow, exec_busRow hrow]
    exact busWrites_withoutDelivery hok _
  · cases i with
    | init => exact absurd rfl hi
    | setpos | data | wake | sleep => exact whenIdle_withoutDelivery (emitAndFinish_withoutDelivery hok _)
    | refresh => exact execRefresh_withoutDelivery hok
    | refrange => exact execRefrange_withoutDelivery hok _ _ _
    | clear => exact execClear_withoutDelivery hok
    | pixset => exact execPixset_withoutDelivery hok _ _ _
    | pixget => exact execPixget_withoutDelivery hok _ _
    | _ => exact absurd rfl hrow

end

/-- Settles O53. -/
theorem invalidTransportDeliversNothing : Obligations.InvalidTransportDeliversNothing := by
  refine ⟨fun s t hok h => step_trace_invalid hok h, fun i s t hi hok h => ?_⟩
  rw [exec_withoutDelivery hok hi] at h
  obtain ⟨u, hu, ht⟩ := andThen_eq_next.1 h
  injection ht with ht
  exact ⟨u, hu, ht⟩

end Sys2Proof.Machine
end

section
/-! ASSUMED sink: what the refresh streams leave in the display's RAM (20_memory.md R47, R48; log entry 16). The events
of a span copy an interval of GRAM's linear addresses; the pages of a full refresh are eight such intervals in a row. -/

namespace Sys2Proof.Machine

/-! ## The addressing triplet -/

theorem Display.run_append (d : Display) (es fs : List BusEvent) : d.run (es ++ fs) = (d.run es).run fs :=
  List.foldl_append

theorem Display.command_pageSel {page : Byte} (h : page.toNat < 8) (d : Display) :
    d.command (pageSel page) = { d with dp := page.extractLsb' 0 3 } := by
  have hbits : ∀ p : Byte, p.toNat < 8 → (pageSel p).extractLsb' 3 5 = 0b10110#5 ∧
      (pageSel p).extractLsb' 0 3 = p.extractLsb' 0 3 := by decide
  obtain ⟨hsel, hpage⟩ := hbits page h
  simp only [Display.command, if_pos hsel, hpage]

theorem Display.command_colHi (x : Byte) (d : Display) :
    d.command (colHi x) = { d with dc := x.extractLsb' 4 4 ++ d.dc.extractLsb' 0 4 } := by
  have hbits : ∀ x : Byte, (colHi x).extractLsb' 3 5 ≠ 0b10110#5 ∧ (colHi x).extractLsb' 4 4 = 0b0001#4 ∧
      (colHi x).extractLsb' 0 4 = x.extractLsb' 4 4 := by decide
  obtain ⟨hpage, hhi, hx⟩ := hbits x
  simp only [Display.command, if_neg hpage, if_pos hhi, hx]

theorem Display.command_colLo (x : Byte) (d : Display) :
    d.command (colLo x) = { d with dc := d.dc.extractLsb' 4 4 ++ x.extractLsb' 0 4 } := by
  have hbits : ∀ x : Byte, (colLo x).extractLsb' 3 5 ≠ 0b10110#5 ∧ (colLo x).extractLsb' 4 4 ≠ 0b0001#4 ∧
      (colLo x).extractLsb' 4 4 = 0b0000#4 ∧ (colLo x).extractLsb' 0 4 = x.extractLsb' 0 4 := by decide
  obtain ⟨hpage, hhi, hlo, hx⟩ := hbits x
  simp only [Display.command, if_neg hpage, if_neg hhi, if_pos hlo, hx]

/-- With no argument pending a command byte is a command. -/
theorem Display.event_cmd {d : Display} (h : d.argPending = false) (b : Byte) :
    d.event (cmdEvent b) = d.command b := by
  simp [Display.event, cmdEvent, h]

/-- A triplet with a page of the display sets both pointers and nothing else. -/
theorem Display.run_triplet {d : Display} (h : d.argPending = false) {x page : Byte} (hpage : page.toNat < 8) :
    d.run (triplet x page) = { d with dp := page.extractLsb' 0 3, dc := x } := by
  have hx : x.extractLsb' 4 4 ++ x.extractLsb' 0 4 = x :=
    (BitVec.extractLsb'_append_extractLsb'_eq_extractLsb' rfl).trans BitVec.extractLsb'_eq_self
  simp only [Display.run, triplet, List.foldl_cons, List.foldl_nil, Display.event_cmd, h,
    Display.command_pageSel hpage, Display.command_colHi, Display.command_colLo, BitVec.extractLsb'_append_eq_left, hx]

/-! ## Copying an interval of GRAM -/

/-- The display's RAM is `old` with the cells at linear addresses `lo` up to `hi` copied from `m`; it is canonical and
no argument is pending. -/
structure Display.Copied (m : Memory) (lo hi : Nat) (old : Memory) (d : Display) : Prop where
  argPending : d.argPending = false
  wf : d.dram.wf = true
  read (a : Nat) : d.dram.read a = if lo ≤ a ∧ a < hi then m.read a else old.read a

theorem Display.Copied.refl {d : Display} (harg : d.argPending = false) (hwf : d.dram.wf = true) (m : Memory)
    (lo : Nat) : Display.Copied m lo lo d.dram d :=
  ⟨harg, hwf, fun a => by rw [if_neg (by omega)]⟩

theorem Display.Copied.trans {m old : Memory} {lo mid hi : Nat} {d d' : Display} (hlo : lo ≤ mid) (hhi : mid ≤ hi)
    (h : Display.Copied m lo mid old d) (h' : Display.Copied m mid hi d.dram d') : Display.Copied m lo hi old d' := by
  refine ⟨h'.argPending, h'.wf, fun a => ?_⟩
  rw [h'.read, h.read]
  by_cases hmid : mid ≤ a ∧ a < hi
  · rw [if_pos hmid, if_pos ⟨by omega, hmid.2⟩]
  · have hiff : (lo ≤ a ∧ a < mid) ↔ (lo ≤ a ∧ a < hi) := by omega
    simp only [if_neg hmid, hiff]

/-- A data byte at a column of the display copies the one cell it comes from. -/
theorem Display.copied_dataByte {d : Display} (hwf : d.dram.wf = true) (hc : d.dc.toNat < 128) (m : Memory) :
    Display.Copied m (cellAddr d.dp.toNat d.dc.toNat) (cellAddr d.dp.toNat d.dc.toNat + 1) d.dram
      (d.dataByte (m.read (cellAddr d.dp.toNat d.dc.toNat))) := by
  have hlt := cellAddr_lt d.dp.isLt hc
  have hdram : ∀ b, (d.dataByte b).dram = d.dram.write (cellAddr d.dp.toNat d.dc.toNat) b := fun b => if_pos hc
  refine ⟨rfl, ?_, fun a => ?_⟩
  · rw [hdram]
    exact Memory.wf_write hwf hlt
  · rw [hdram, Memory.read_write hwf]
    by_cases ha : a = cellAddr d.dp.toNat d.dc.toNat
    · rw [if_pos ha, if_pos (by omega), ha]
    · rw [if_neg ha, if_neg (by omega)]

/-- After a data byte the column has stepped, wrapping after 127. -/
theorem Display.dataByte_dc {d : Display} (hc : d.dc.toNat < 128) (b : Byte) :
    (d.dataByte b).dc.toNat = (d.dc.toNat + 1) % 128 := by
  unfold Display.dataByte
  dsimp only
  split <;> rename_i h
  · rw [h]; rfl
  · have hne : d.dc.toNat ≠ 127 := fun he => h (BitVec.eq_of_toNat_eq he)
    simp only [BitVec.toNat_add, BitVec.toNat_ofNat]
    omega

/-- The data bytes of a stream, sent with the pointers at its first cell, copy its cells: the column does not wrap
before the last. -/
theorem Display.copied_stream {d : Display} (harg : d.argPending = false) (hwf : d.dram.wf = true) (m : Memory)
    {page first n : Nat} (hdp : d.dp.toNat = page) (hdc : d.dc.toNat = first % 128) (hn : first + n ≤ 128) :
    Display.Copied m (cellAddr page first) (cellAddr page first + n) d.dram
      (d.run (streamEvents m page first n)) := by
  induction n generalizing d first with
  | zero => exact .refl harg hwf m _
  | succ n ih =>
    rw [Nat.mod_eq_of_lt (by omega)] at hdc
    have hc : d.dc.toNat < 128 := by omega
    have hstep := Display.copied_dataByte hwf hc m
    have hcol := Display.dataByte_dc hc (m.read (cellAddr d.dp.toNat d.dc.toNat))
    rw [hdp, hdc] at hstep hcol
    rw [streamEvents_succ, Nat.add_comm n, ← Nat.add_assoc]
    exact hstep.trans (Nat.le_succ _) (Nat.le_add_right _ _)
      (ih hstep.argPending hstep.wf hdp hcol (by omega))

/-- A triplet and the stream that follows it copy the span, wherever the pointers stood before. -/
theorem Display.copied_span {d : Display} (harg : d.argPending = false) (hwf : d.dram.wf = true) (m : Memory)
    {x page : Byte} {n : Nat} (hpage : page.toNat < 8) (hn : x.toNat + n ≤ 128) (hx : x.toNat < 128) :
    Display.Copied m (cellAddr page.toNat x.toNat) (cellAddr page.toNat x.toNat + n) d.dram
      (d.run (triplet x page ++ streamEvents m page.toNat x.toNat n)) := by
  rw [Display.run_append, Display.run_triplet harg hpage]
  have hdp : (page.extractLsb' 0 3).toNat = page.toNat := Nat.mod_eq_of_lt hpage
  exact Display.copied_stream (d := { d with dp := page.extractLsb' 0 3, dc := x }) harg hwf m hdp
    (Nat.mod_eq_of_lt hx).symm hn

/-- The first `k` pages of a full refresh copy the first `k` pages of GRAM. -/
theorem Display.copied_pages {d : Display} (harg : d.argPending = false) (hwf : d.dram.wf = true) (m : Memory)
    {k : Nat} (hk : k ≤ 8) :
    Display.Copied m 0 (128 * k) d.dram (d.run ((List.range k).flatMap (pageEvents m))) := by
  induction k with
  | zero => exact .refl harg hwf m 0
  | succ k ih =>
    have h := ih (by omega)
    have hto : (BitVec.ofNat 8 k).toNat = k := Nat.mod_eq_of_lt (by omega)
    have hpage := Display.copied_span h.argPending h.wf m (x := 0x00#8) (page := BitVec.ofNat 8 k) (n := 128)
      (by omega) (by decide) (by decide)
    rw [hto] at hpage
    rw [List.range_succ, List.flatMap_append, Display.run_append, List.flatMap_singleton]
    have hlo : cellAddr k 0 = 128 * k := by simp [cellAddr, Nat.mul_comm]
    refine h.trans (Nat.zero_le _) (by omega) ?_
    simpa [pageEvents, hlo, Nat.mul_succ] using hpage

/-- Above GRAM every cell of a canonical memory reads as after reset. -/
theorem Memory.read_above {m : Memory} {lo a : Nat} (h : Memory.wfFrom lo m = true) (ha : 1024 ≤ a) :
    m.read a = 0#8 := by
  induction m generalizing lo with
  | nil => rfl
  | cons c m ih =>
    obtain ⟨b, v⟩ := c
    obtain ⟨-, hb, -, hm⟩ := Memory.wfFrom_cons.1 h
    rw [Memory.read_cons, if_neg (by omega)]
    exact ih hm

/-- A copy of all of GRAM is GRAM. -/
theorem Display.Copied.dram_eq {m old : Memory} {d : Display} (h : Display.Copied m 0 1024 old d) (hm : m.wf = true) :
    d.dram = m := by
  refine Memory.ext_of_wf h.wf hm fun a => ?_
  by_cases ha : a < 1024
  · rw [h.read, if_pos ⟨Nat.zero_le a, ha⟩]
  · rw [Memory.read_above h.wf (by omega), Memory.read_above hm (by omega)]

/-- The cells of a span are those whose linear addresses lie in its interval. -/
theorem cellAddr_mem_span {page a z p c : Nat} (haz : a ≤ z) (hz : z < 128) (hc : c < 128) :
    (cellAddr page a ≤ cellAddr p c ∧ cellAddr p c < cellAddr page a + (z + 1 - a)) ↔ p = page ∧ a ≤ c ∧ c ≤ z := by
  unfold cellAddr
  omega

/-! ## The operations -/

/-- What an emitting operation adds to TRACE over a valid transport. -/
theorem emitAndFinish_trace {es : List BusEvent} {s t : State} (hok : s.busOk = true)
    (h : emitAndFinish es s = .next t) : t.trace = s.trace ++ es := by
  obtain ⟨-, rfl⟩ := emitAndFinish_eq_next.1 h
  simp [hok]

theorem execRefrange_span {page a z : Byte} {s t : State} (h : execRefrange page a z s = .next t)
    (hpage : page.toNat < 8) (haz : a.toNat ≤ z.toNat) (hz : z.toNat < 128) :
    emitAndFinish (rangeEvents s.gram page a z) s = .next t := by
  obtain ⟨-, h⟩ := whenIdle_eq_next.1 h
  have hvalid : rangeValid page a z = true := decide_eq_true ⟨hpage, Nat.lt_of_le_of_lt haz hz, hz⟩
  rwa [if_pos hvalid, if_pos haz] at h

/-- Settles O55: the eight pages copy all of GRAM. -/
theorem refreshMirrorsGramOnTheSink : Obligations.RefreshMirrorsGramOnTheSink := by
  intro s t d hgram hok h harg hwf
  have htrace := emitAndFinish_trace hok (execRefresh_eq_next.1 h).2
  exact ⟨_, htrace, (Display.copied_pages harg hwf s.gram (Nat.le_refl 8)).dram_eq hgram⟩

/-- Settles O56: the stream copies the interval of the span. -/
theorem refrangeMirrorsItsSpanOnTheSink : Obligations.RefrangeMirrorsItsSpanOnTheSink := by
  intro s t d page a z hok h hpage haz hz harg hwf
  have htrace := emitAndFinish_trace hok (execRefrange_span h hpage haz hz)
  have hspan := Display.copied_span harg hwf s.gram (x := a) (n := z.toNat + 1 - a.toNat) hpage (by omega) (by omega)
  refine ⟨_, htrace, fun p c _ hc => (hspan.read (cellAddr p c)).trans ?_⟩
  simp only [cellAddr_mem_span haz hz hc]
  rfl

end Sys2Proof.Machine
end

section
/-! The request word: when it decodes, to what, and which of its bits an operation reads (30_encoding.md R50 to R54). -/

namespace Sys2Proof

/-! ## The fields of a word -/

/-- 30_encoding.md R50: a word is its five fields at their places. -/
theorem toNat_eq_fields (w : Word) :
    w.toNat = (opField w).toNat * 2 ^ 28 + (zField w).toNat * 2 ^ 24 + (cField w).toNat * 2 ^ 16 +
      (bField w).toNat * 2 ^ 8 + (aField w).toNat := by
  simp only [opField, zField, cField, bField, aField, BitVec.extractLsb'_toNat, Nat.shiftRight_eq_div_pow]
  omega

/-- Words are equal exactly when their fields are. -/
theorem word_eq_iff {w w' : Word} :
    w = w' ↔ opField w = opField w' ∧ zField w = zField w' ∧ cField w = cField w' ∧ bField w = bField w' ∧
      aField w = aField w' := by
  constructor
  · rintro rfl
    simp
  · rintro ⟨hop, hz, hc, hb, ha⟩
    exact BitVec.eq_of_toNat_eq (by rw [toNat_eq_fields w, toNat_eq_fields w', hop, hz, hc, hb, ha])

theorem fields_and (w m : Word) :
    opField (w &&& m) = opField w &&& opField m ∧ zField (w &&& m) = zField w &&& zField m ∧
      cField (w &&& m) = cField w &&& cField m ∧ bField (w &&& m) = bField w &&& bField m ∧
      aField (w &&& m) = aField w &&& aField m :=
  ⟨BitVec.extractLsb'_and, BitVec.extractLsb'_and, BitVec.extractLsb'_and, BitVec.extractLsb'_and,
    BitVec.extractLsb'_and⟩

/-- The mask that keeps OP, Z and the given bits of the operand fields. -/
def operandMask (c b a : Byte) : Word := mkRequest 0xF#4 c b a ||| 0x0F000000#32

theorem fields_operandMask (c b a : Byte) :
    opField (operandMask c b a) = BitVec.allOnes 4 ∧ zField (operandMask c b a) = BitVec.allOnes 4 ∧
      cField (operandMask c b a) = c ∧ bField (operandMask c b a) = b ∧ aField (operandMask c b a) = a := by
  obtain ⟨hop, hz, hc, hb, ha⟩ := fields_mkRequest 0xF#4 c b a
  have hor {k n : Nat} {x : BitVec n} (h : (mkRequest 0xF#4 c b a).extractLsb' k n = x) :
      (operandMask c b a).extractLsb' k n = x ||| (0x0F000000#32).extractLsb' k n := by
    rw [operandMask, BitVec.extractLsb'_or, h]
  exact ⟨(hor hop).trans rfl, (hor hz).trans rfl, (hor hc).trans BitVec.or_zero, (hor hb).trans BitVec.or_zero,
    (hor ha).trans BitVec.or_zero⟩

/-- A word masked is a request word exactly when it has that operation code, `Z = 0` and that word's operands in the
bits kept. -/
theorem and_operandMask {w : Word} {op : BitVec 4} {mc mb ma c b a : Byte} :
    w &&& operandMask mc mb ma = mkRequest op c b a ↔
      opField w = op ∧ zField w = 0#4 ∧ cField w &&& mc = c ∧ bField w &&& mb = b ∧ aField w &&& ma = a := by
  simp only [word_eq_iff, fields_and, fields_operandMask, BitVec.and_allOnes, opField_mkRequest, zField_mkRequest,
    cField_mkRequest, bField_mkRequest, aField_mkRequest]

/-- The masks of careMask on the request operations, by the operand bytes they keep. -/
theorem careMask_values :
    0xFF000000#32 = operandMask 0#8 0#8 0#8 ∧ 0xFF0000FF#32 = operandMask 0#8 0#8 (BitVec.allOnes 8) ∧
      0xFF00FFFF#32 = operandMask 0#8 (BitVec.allOnes 8) (BitVec.allOnes 8) ∧
      0xFFFFFFFF#32 = operandMask (BitVec.allOnes 8) (BitVec.allOnes 8) (BitVec.allOnes 8) := by
  decide

/-! ## Colours (30_encoding.md R54) -/

@[simp] theorem Color.toBits_ofBits (c : BitVec 2) : (Color.ofBits c).toBits = c := by
  revert c; decide

/-- The colour byte is its reserved bits and its code. -/
theorem cField_eq_colour {c : Byte} {color : Color} :
    c = 0#6 ++ color.toBits ↔ c.extractLsb' 2 6 = 0#6 ∧ color = Color.ofBits (c.extractLsb' 0 2) := by
  cases color <;> revert c <;> decide

/-- What a colour makes of one pixel. -/
def Color.onPixel (color : Color) (b : Bool) : Bool :=
  match color with
  | .black => false
  | .white => true
  | .inverse => !b
  | .reserved3 => b

/-! ## Which words decode, and to what -/

theorem decodeRequest_reservedZ {w : Word} (h : zField w ≠ 0#4) : decodeRequest w = .error (.reservedZ (zField w)) :=
  if_pos h

theorem decodeRequest_zField {w : Word} {i : Instr} (h : decodeRequest w = .ok i) : zField w = 0#4 := by
  by_contra hz
  rw [decodeRequest_reservedZ hz] at h
  cases h

/-- A word decodes to the instruction whose encoding it is in the bits that the instruction reads
(30_encoding.md R50). -/
theorem decodeRequest_eq_ok {w : Word} {i : Instr} :
    decodeRequest w = .ok i ↔ encode i = .request (w &&& careMask i) := by
  constructor
  · intro h
    have hz := decodeRequest_zField h
    have hop := decodeRequest_opcode h
    cases i with
    | pixset =>
      have hop := (Option.some.inj hop).symm
      refine congrArg Encoded.request (Eq.symm ?_)
      simp only [careMask, careMask_values, and_operandMask, BitVec.and_allOnes, cField_eq_colour]
      by_cases hc : (cField w).extractLsb' 2 6 = 0#6
      · simp_all [decodeRequest]
      · simp [decodeRequest, hz, hop, hc] at h
    | init | setpos | data | wake | sleep | refresh | refrange | clear | pixget =>
      have hop := (Option.some.inj hop).symm
      refine congrArg Encoded.request (Eq.symm ?_)
      simp only [careMask, careMask_values, and_operandMask, BitVec.and_allOnes, BitVec.and_zero]
      simp_all [decodeRequest]
    | _ => cases hop
  · intro h
    cases i with
    | init | setpos | data | wake | sleep | refresh | refrange | pixset | clear | pixget =>
      injection h with h
      have h := h.symm
      simp only [careMask, careMask_values, and_operandMask, BitVec.and_allOnes, cField_eq_colour] at h
      simp [decodeRequest, h]
    | _ => cases h

/-- The words that decode are those that 30_encoding.md R53 does not reserve, colour 3 included. -/
theorem decodeRequest_isOk {w : Word} :
    (∃ i, decodeRequest w = .ok i) ↔ zField w = 0#4 ∧ opField w ≤ 0xA#4 ∧ opField w ≠ 0x7#4 ∧
      (opField w = 0x8#4 → (cField w).extractLsb' 2 6 = 0#6) := by
  unfold decodeRequest
  split <;> rename_i hz
  · simp [hz]
  · have hz := not_not.1 hz
    split <;> rename_i hop
    case h_8 => -- PIXSET
      split <;> rename_i hc <;> simp_all [BitVec.le_def, ← BitVec.toNat_inj (x := opField w)]
    case h_11 => -- no row of the opcode map
      have hlisted : ∀ op : BitVec 4, op ≤ 0xA#4 → op ≠ 0x7#4 → op.toNat ∈ [0, 1, 2, 3, 4, 5, 6, 8, 9, 10] := by
        decide
      have := hlisted (opField w)
      simp_all
    all_goals simp [hz, hop, BitVec.le_def, ← BitVec.toNat_inj (x := opField w)]

end Sys2Proof

namespace Sys2Proof.Machine

/-- Settles O5. A word that agrees with `w` in the bits an operation reads has its encoding there too. -/
theorem requestFormatAndIgnoredFields : Obligations.RequestFormatAndIgnoredFields := by
  refine ⟨toNat_eq_fields, fun w hz => ⟨_, decodeRequest_reservedZ hz⟩, fun c b a => ⟨?_, ?_⟩, fun w w' i h heq => ?_⟩
  · simp [decodeRequest]
  · simp [decodeRequest]
  · rw [decodeRequest_eq_ok, heq]
    exact decodeRequest_eq_ok.1 h

end Sys2Proof.Machine
end

section
/-! The frame-buffer operations: when they answer, with what, and what becomes of each pixel (40_framebuffer_ops.md
R70 to R72, 10_state.md R11). -/

namespace Sys2Proof.Machine

theorem execPixset_eq_next {x y : Byte} {color : Color} {s t : State} :
    execPixset x y color s = .next t ↔ s.seq.st = .idle ∧
      t = (if pixelInRange x y ∧ color ≠ .reserved3 then
        s.setCell (pageOf y) x.toNat (applyColor color (s.cell (pageOf y) x.toNat) (maskOf y)) else s).done false := by
  unfold execPixset
  rw [whenIdle_eq_next, eq_comm (a := t)]
  split <;> simp

theorem execPixget_eq_next {x y : Byte} {s t : State} :
    execPixget x y s = .next t ↔
      s.seq.st = .idle ∧ pixelInRange x y = true ∧ t = s.done (s.pixel x.toNat y.toNat) := by
  unfold execPixget
  rw [whenIdle_eq_next, eq_comm (a := t)]
  split <;> rename_i hin <;> simp [hin]

/-- PIXSET of colour 3 changes nothing (40_framebuffer_ops.md R70). -/
theorem exec_pixset_reserved3 {s : State} (h : s.seq.st = .idle) (x y : Byte) :
    exec (.pixset x y .reserved3) s = .next (s.done false) :=
  execPixset_eq_next.2 ⟨h, by simp⟩

theorem maskOf_getLsbD (y : Byte) {n : Nat} (hn : n < 8) : (maskOf y).getLsbD n = decide (n = bitOf y) := by
  rw [Bool.eq_iff_iff, maskOf, BitVec.getLsbD_shiftLeft, BitVec.getLsbD_one]
  simp only [hn, Bool.and_eq_true, Bool.not_eq_true', decide_eq_true_eq, decide_eq_false_iff_not, true_and]
  omega

@[simp] theorem State.pixel_done (v : Bool) (s : State) (x y : Nat) : (s.done v).pixel x y = s.pixel x y := rfl

/-- Reading a pixel after writing a cell. -/
theorem State.pixel_setCell {s : State} {p c x y : Nat} {v : Byte} (h : s.gram.wf = true) (hc : c < 128)
    (hx : x < 128) :
    (s.setCell p c v).pixel x y = if y / 8 = p ∧ x = c then v.getLsbD (y % 8) else s.pixel x y := by
  rw [State.pixel, State.cell_setCell h hc hx]
  split <;> rfl

/-- The colour operation with a pixel's mask changes that pixel's bit of the cell and no other. -/
theorem applyColor_getLsbD (color : Color) (cell y : Byte) {n : Nat} (hn : n < 8) :
    (applyColor color cell (maskOf y)).getLsbD n =
      if n = bitOf y then color.onPixel (cell.getLsbD n) else cell.getLsbD n := by
  have hmask := maskOf_getLsbD y hn
  by_cases hbit : n = bitOf y
  · rw [decide_eq_true hbit] at hmask
    rw [if_pos hbit]
    cases color <;> simp [applyColor, Color.onPixel, hmask, hn, -BitVec.getLsbD_eq_getElem]
  · rw [decide_eq_false hbit] at hmask
    rw [if_neg hbit]
    cases color <;> simp [applyColor, hmask, hn, -BitVec.getLsbD_eq_getElem]

/-- The effect of PIXSET in range on the addressed pixel and on every other (40_framebuffer_ops.md R70). -/
theorem exec_pixset_pixel {s : State} {x y : Byte} (color : Color) (hidle : s.seq.st = .idle)
    (hwf : s.gram.wf = true) (hx : x.toNat < 128) (hy : y.toNat < 64) :
    ∃ t, exec (.pixset x y color) s = .next t ∧ ∀ x' y' : Nat, x' < 128 →
      t.pixel x' y' =
        if x' = x.toNat ∧ y' = y.toNat then color.onPixel (s.pixel x' y') else s.pixel x' y' := by
  refine ⟨_, execPixset_eq_next.2 ⟨hidle, rfl⟩, fun x' y' hx' => ?_⟩
  have hin : pixelInRange x y = true := decide_eq_true ⟨hx, hy⟩
  by_cases hcolor : color = .reserved3
  · simp [hcolor, Color.onPixel]
  · have haddr : (y' / 8 = pageOf y ∧ x' = x.toNat) ∧ y' % 8 = bitOf y ↔ x' = x.toNat ∧ y' = y.toNat := by
      unfold pageOf bitOf
      omega
    rw [if_pos ⟨hin, hcolor⟩, State.pixel_done, State.pixel_setCell hwf hx hx']
    simp only [← haddr]
    split <;> rename_i hcell
    · simp only [applyColor_getLsbD _ _ _ (Nat.mod_lt _ (by decide)), and_iff_right hcell]
      obtain ⟨hpage, hcol⟩ := hcell
      rw [State.pixel, hpage, hcol]
    · rw [if_neg fun h => hcell h.1]

/-- Settles O8: the colour of the code is what PIXSET makes of the pixel. -/
theorem colourCodesActOnOnePixel : Obligations.ColourCodesActOnOnePixel := by
  intro s c x y hidle hwf hx hy
  obtain ⟨t, ht, hpixel⟩ := exec_pixset_pixel (Color.ofBits c) hidle hwf hx hy
  have hdecode : decodeRequest (mkRequest 0x8#4 (0#6 ++ c) y x) = .ok (.pixset x y (Color.ofBits c)) := by
    rw [decodeRequest_eq_ok, encode, Color.toBits_ofBits]
    exact congrArg Encoded.request BitVec.and_allOnes.symm
  have hcode : ∀ (c : BitVec 2) (b : Bool), (Color.ofBits c).onPixel b =
      if c = 0#2 then false else if c = 1#2 then true else if c = 2#2 then !b else b := by decide
  refine ⟨_, t, hdecode, ht, ?_, fun x' y' hx' _ hne => ?_⟩
  · rw [hpixel _ _ hx, if_pos ⟨rfl, rfl⟩, hcode]
  · rw [hpixel _ _ hx', if_neg hne]

end Sys2Proof.Machine
end

section
/-! The opcode map (30_encoding.md R52) and the reserved words (R53). -/

namespace Sys2Proof.Machine

/-! ## The rows of the opcode map (30_encoding.md R52) -/

/-- The mask of a row's pattern: the colour's reserved bits belong to PIXSET's. -/
def rowMask (op : BitVec 4) : Word := operandMask (if op = 0x8#4 then 0xFC#8 else 0#8) 0#8 0#8

theorem and_rowMask {w : Word} {op : BitVec 4} :
    w &&& rowMask op = mkRequest op 0 0 0 ↔
      opField w = op ∧ zField w = 0#4 ∧ (op = 0x8#4 → (cField w).extractLsb' 2 6 = 0#6) := by
  have hcolour : ∀ c : Byte, c &&& 0xFC#8 = 0#8 ↔ c.extractLsb' 2 6 = 0#6 := by decide
  rw [rowMask, and_operandMask]
  by_cases hop : op = 0x8#4 <;> simp [hop, hcolour]

theorem opcodeMap_row {row : OpcodeRow} (h : row ∈ opcodeMap) :
    ∃ op : BitVec 4, row.sample.opcode = some op ∧ row.mask = rowMask op ∧ row.pattern = mkRequest op 0 0 0 ∧
      op ≤ 0xA#4 ∧ op ≠ 0x7#4 := by
  revert row
  decide

/-- A row selects the words that decode to its operation. -/
theorem and_mask_eq_pattern {row : OpcodeRow} (hrow : row ∈ opcodeMap) {w : Word} :
    w &&& row.mask = row.pattern ↔ ∃ i, decodeRequest w = .ok i ∧ i.opcode = row.sample.opcode := by
  obtain ⟨op, hsample, hmask, hpattern, hle, hne⟩ := opcodeMap_row hrow
  rw [hsample, hmask, hpattern, and_rowMask]
  constructor
  · rintro ⟨rfl, hz, hc⟩
    obtain ⟨i, h⟩ := decodeRequest_isOk.2 ⟨hz, hle, hne, hc⟩
    exact ⟨i, h, decodeRequest_opcode h⟩
  · rintro ⟨i, h, hi⟩
    obtain rfl : opField w = op := Option.some.inj ((decodeRequest_opcode h).symm.trans hi)
    obtain ⟨hz, -, -, hc⟩ := decodeRequest_isOk.1 ⟨i, h⟩
    exact ⟨rfl, hz, hc⟩

theorem opcodeMap_disjoint :
    opcodeMap.Pairwise fun r r' => ∀ w : Word, ¬(w &&& r.mask = r.pattern ∧ w &&& r'.mask = r'.pattern) := by
  have hcodes : opcodeMap.Pairwise fun r r' => r.sample.opcode ≠ r'.sample.opcode := by decide
  refine hcodes.imp_of_mem fun hr hr' hne w ⟨h, h'⟩ => ?_
  obtain ⟨i, hi, hop⟩ := (and_mask_eq_pattern hr).1 h
  obtain ⟨i', hi', hop'⟩ := (and_mask_eq_pattern hr').1 h'
  cases hi.symm.trans hi'
  exact hne (hop.symm.trans hop')

/-! ## Bit 31 -/

theorem getLsbD_31 (w : Word) : w.getLsbD 31 = (opField w).getLsbD 3 := by
  simp [opField]

/-- PIXSET, CLEAR and PIXGET send nothing. -/
theorem exec_trace_of_bit31 {i : Instr} {s t : State} {op : BitVec 4} (h : exec i s = .next t)
    (hop : i.opcode = some op) (hbit : op.getLsbD 3 = true) : t.trace = s.trace ∧ t.settles = s.settles := by
  cases i with
  | pixset =>
    obtain ⟨-, rfl⟩ := execPixset_eq_next.1 h
    split <;> exact ⟨rfl, rfl⟩
  | clear =>
    obtain ⟨-, rfl⟩ := execClear_eq_next.1 h
    exact ⟨rfl, rfl⟩
  | pixget =>
    obtain ⟨-, -, rfl⟩ := execPixget_eq_next.1 h
    exact ⟨rfl, rfl⟩
  | init | setpos | data | wake | sleep | refresh | refrange =>
    cases hop
    cases hbit
  | _ => cases hop

/-- An operation that is neither PIXSET nor CLEAR leaves GRAM. -/
theorem exec_gram_of_not_bit31 {i : Instr} {s t : State} {op : BitVec 4} (h : exec i s = .next t)
    (hop : i.opcode = some op) (hbit : op.getLsbD 3 = false) : t.gram = s.gram := by
  obtain h | rfl | ⟨x, y, color, rfl⟩ := (exec_effect h).gram
  · exact h
  all_goals
    cases hop
    cases hbit

/-- Settles O6: a row's words are those of its operation code, whose top bit is bit 31. -/
theorem opcodeMapSelectsOneRow : Obligations.OpcodeMapSelectsOneRow := by
  refine ⟨fun row hrow w => and_mask_eq_pattern hrow, opcodeMap_disjoint, fun w i s t hw hx => ?_⟩
  rw [getLsbD_31]
  exact ⟨exec_trace_of_bit31 hx (decodeRequest_opcode hw), exec_gram_of_not_bit31 hx (decodeRequest_opcode hw)⟩

/-! ## Reserved words (30_encoding.md R53) -/

/-- A reserved word is rejected, or is a PIXSET of colour 3 (90_conflicts.md C11). -/
theorem decodeRequest_reserved {w : Word} (h : reservedWord w) :
    (∃ e, decodeRequest w = .error e) ∨ ∃ x y, decodeRequest w = .ok (.pixset x y .reserved3) := by
  cases hw : decodeRequest w with
  | error e => exact .inl ⟨e, rfl⟩
  | ok i =>
    obtain ⟨hz, hle, hne, hc⟩ := decodeRequest_isOk.1 ⟨i, hw⟩
    have hcolour : opField w = 0x8#4 ∧ (cField w).extractLsb' 0 2 = 3#2 := by
      unfold reservedWord at h
      rcases h with h | h | h | h | h | h | h | ⟨h, h'⟩ | h <;> simp_all
    obtain ⟨hop, hcolour⟩ := hcolour
    refine .inr ⟨aField w, bField w, ?_⟩
    rw [← hw]
    simp [decodeRequest, hz, hop, hc hop, hcolour, Color.ofBits]

theorem step_presents {s : State} {w : Word} {rest : List Word} (h : s.presents w rest) :
    step s = acceptRequest w rest s := by
  obtain ⟨hrst, hidle, hq⟩ := h
  simp [step, hrst, hidle, hq]

/-- Settles O7: at either grain the step accepts the word and finishes. -/
theorem reservedWordIsANoOp : Obligations.ReservedWordIsANoOp := by
  intro s w rest hp hreserved
  have haccept : acceptRequest w rest s = .next ((s.latch w rest).done false) := by
    obtain ⟨e, hw⟩ | ⟨x, y, hw⟩ := decodeRequest_reserved hreserved
    · simp [acceptRequest, hw]
    · have hx := exec_pixset_reserved3 (s := s.latch w rest) hp.idle x y
      cases hg : s.grain <;> simp [acceptRequest, hw, hg, acceptOp, hx]
  rw [step_presents hp, haccept, State.done, State.latch_seq, Seq.set_idle hp.idle]
  rfl

end Sys2Proof.Machine
end

section
/-! What a bus row writes is what its encoding says (30_encoding.md R56 to R60), and the words of the triplet. -/

namespace Sys2Proof.Machine

/-! ## The addressing triplet -/

/-- The page-select byte of a page of the display is the pattern of BUS.PAGESEL. -/
theorem pageSel_eq_append {page : Byte} (h : page.toNat < 8) : pageSel page = 0b10110#5 ++ page.extractLsb' 0 3 := by
  revert page; decide

theorem colHi_eq_append (x : Byte) : colHi x = 0b0001#4 ++ x.extractLsb' 4 4 := by
  revert x; decide

theorem colLo_eq_append (x : Byte) : colLo x = 0b0000#4 ++ x.extractLsb' 0 4 := by
  revert x; decide

/-- The page byte wraps at 8 bits. -/
theorem pageSel_toNat_of_wrap {page : Byte} (h : 0x50 ≤ page.toNat) : (pageSel page).toNat = page.toNat - 0x50 := by
  simp only [pageSel, BitVec.toNat_add, BitVec.toNat_ofNat]
  omega

/-- Settles O16, by the bit patterns of the three bytes. -/
theorem tripletBitPatterns : Obligations.TripletBitPatterns := by
  refine ⟨fun _ _ => rfl, fun _ => pageSel_eq_append, colHi_eq_append, fun x hx => ?_, colLo_eq_append, ?_, ?_, rfl,
    fun _ => pageSel_toNat_of_wrap⟩
  · revert x; decide
  · decide
  · decide

/-! ## The bus rows -/

/-- The register-select value of a tag, written as in 30_encoding.md R56. -/
theorem Tag.code_eq (t : Tag) : t.code = if t = .data then 0x40#8 else 0x00#8 := by
  cases t <;> rfl

theorem exec_oneEventRow {i : Instr} {s : State} {e : BusEvent} (hrow : i.opcode = none)
    (he : rowEvents s.params i = [e]) (hd : s.busDone = true) : exec i s = .next (s.deliver e) := by
  rw [exec_busRow hrow, he, busWrites_done hd, State.deliverAll_one]

/-- Settles O24: each row is a bus row with that one event. -/
theorem oneEventBusRowsWriteTheirByte : Obligations.OneEventBusRowsWriteTheirByte := by
  intro s page h l b hd
  have hpage : 0b10110#5 ++ page = 0xB0#8 + page.setWidth 8 := by revert page; decide
  have hhi : 0b0001#4 ++ h = 0x10#8 + h.setWidth 8 := by revert h; decide
  have hlo : 0b0000#4 ++ l = l.setWidth 8 := by revert l; decide
  intro row hmem
  obtain ⟨hrow, hevents⟩ : row.1.opcode = none ∧ rowEvents s.params row.1 = [row.2] := by
    revert row
    simp [Instr.opcode, rowEvents, cmdEvent, dataEvent, hpage, hhi, hlo]
  rw [exec_oneEventRow hrow hevents hd, State.deliver, Tag.code_eq]

/-- Settles O25: each row is a bus row with those two events. -/
theorem twoEventBusRowsWriteTheirBytes : Obligations.TwoEventBusRowsWriteTheirBytes := by
  intro s hd row hmem
  obtain ⟨hrow, hevents⟩ : row.1.opcode = none ∧
      rowEvents s.params row.1 = [cmdEvent row.2.1, cmdEvent row.2.2] := by
    revert row
    simp [Instr.opcode, rowEvents]
  rw [exec_busRow hrow, hevents, busWrites_done hd]
  rfl

/-- A row encoded as one bus word writes the event of that word. -/
theorem encode_bus_row {i : Instr} {w : BitVec 16} (h : encode i = .bus w) (p : Params) :
    i.opcode = none ∧ ∃ e : BusEvent, e.word = w ∧ rowEvents p i = [e] := by
  cases i with
  | init | setpos | data | wake | sleep | refresh | refrange | pixset | clear | pixget => cases h
  | busContrast | busMuxratio | busDispoffset | busOscdiv | busD8 | busPrecharge | busCompins | busVcomh | busCpenable
  | busCpdisable => cases h
  | _ =>
    injection h with h
    refine ⟨rfl, _, ?_, rfl⟩
    exact h

/-- A row encoded as two bus words writes the events of those words; of BUS.CPDISABLE the encoding fixes the
parameter. -/
theorem encode_busPair_row {i : Instr} {w : Word} (h : encode i = .busPair w) {p : Params}
    (hp : i = .busCpdisable → p.cpDisableArg = 0x10#8) :
    i.opcode = none ∧ ∃ e e' : BusEvent, e.word ++ e'.word = w ∧ rowEvents p i = [e, e'] := by
  cases i with
  | busCpdisable =>
    injection h with h
    refine ⟨rfl, _, _, ?_, rfl⟩
    rw [hp rfl]
    exact h
  | busContrast | busMuxratio | busDispoffset | busOscdiv | busD8 | busPrecharge | busCompins | busVcomh
  | busCpenable =>
    injection h with h
    refine ⟨rfl, _, _, ?_, rfl⟩
    exact h
  | _ => cases h

/-- Settles O26: a bus row that answers has delivered its events, which are those of its encoding. -/
theorem busRowsWriteWhatTheyEncode : Obligations.BusRowsWriteWhatTheyEncode := by
  intro i s t hx
  have hdelivered (hrow : i.opcode = none) : t = s.deliverAll (rowEvents s.params i) :=
    (busWrites_eq_next.1 (exec_busRow hrow s ▸ hx)).2
  constructor
  · intro w hw
    obtain ⟨hrow, e, he, hevents⟩ := encode_bus_row hw s.params
    exact ⟨e, he, by rw [hdelivered hrow, hevents, State.deliverAll_one]⟩
  · intro w hw hp
    obtain ⟨hrow, e, e', he, hevents⟩ := encode_busPair_row hw hp
    exact ⟨e, e', he, by rw [hdelivered hrow, hevents, State.deliverAll_cons, State.deliverAll_one]⟩

/-- Settles O58: the expansions are definitional. -/
theorem pseudoOperationsExpand : Obligations.PseudoOperationsExpand :=
  fun _ _ _ _ => ⟨rfl, rfl, rfl, rfl, rfl⟩

end Sys2Proof.Machine
end

section
/-! What each frame-buffer operation answers and leaves in GRAM: PIXSET's one cell and the laws of
40_framebuffer_ops.md R73, CLEAR as its loop (R71), PIXGET inside and outside the display (R72). -/

namespace Sys2Proof.Machine

/-! ## Writing GRAM more than once -/

/-- The later of two writes to one cell wins. -/
theorem Memory.write_write {m : Memory} {a : Nat} {v w : Byte} (h : m.wf = true) (ha : a < 1024) :
    (m.write a v).write a w = m.write a w := by
  have hv : (m.write a v).wf = true := Memory.wf_write h ha
  refine Memory.ext_of_wf (Memory.wf_write hv ha) (Memory.wf_write h ha) fun b => ?_
  rw [Memory.read_write hv, Memory.read_write h, Memory.read_write h]
  split <;> rfl

/-- Writing to a cell what it holds changes nothing. -/
theorem Memory.write_read_self {m : Memory} {a : Nat} (h : m.wf = true) (ha : a < 1024) :
    m.write a (m.read a) = m := by
  refine Memory.ext_of_wf (Memory.wf_write h ha) h fun b => ?_
  rw [Memory.read_write h]
  split
  · next hb => rw [hb]
  · rfl

theorem State.setCell_cell_self {s : State} {p c : Nat} (h : s.gram.wf = true) (ha : cellAddr p c < 1024) :
    s.setCell p c (s.cell p c) = s := by
  rw [State.setCell, State.cell, Memory.write_read_self h ha]

/-- One value written to each of some addresses in order: the loop of 40_framebuffer_ops.md R71 for any list of
addresses. -/
def Memory.fill (v : Byte) (as : List Nat) (m : Memory) : Memory := as.foldl (fun m a => m.write a v) m

theorem Memory.fill_cons (v : Byte) (a : Nat) (as : List Nat) (m : Memory) :
    Memory.fill v (a :: as) m = Memory.fill v as (m.write a v) := rfl

/-- A loop of writes inside GRAM keeps the canonical form, and a cell then reads as written if the loop passed it and
as before if not. -/
theorem Memory.fill_spec {v : Byte} {as : List Nat} (has : ∀ a ∈ as, a < 1024) {m : Memory} (h : m.wf = true) :
    (Memory.fill v as m).wf = true ∧ ∀ b, (Memory.fill v as m).read b = if b ∈ as then v else m.read b := by
  induction as generalizing m with
  | nil => exact ⟨h, fun b => (if_neg List.not_mem_nil).symm⟩
  | cons a as ih =>
    obtain ⟨ha, has⟩ := List.forall_mem_cons.1 has
    obtain ⟨hwf, hread⟩ := ih has (Memory.wf_write (v := v) h ha)
    refine ⟨hwf, fun b => ?_⟩
    rw [Memory.fill_cons, hread, Memory.read_write h]
    by_cases hb : b ∈ as <;> simp [hb]

/-- The loop of 40_framebuffer_ops.md R71 passes every address of GRAM and no other. -/
theorem mem_clearLoop {a : Nat} :
    a ∈ ((List.range 8).flatMap fun p => (List.range 128).map fun c => p * 128 + c) ↔ a < 1024 := by
  simp only [List.mem_flatMap, List.mem_map, List.mem_range]
  constructor
  · rintro ⟨p, hp, c, hc, rfl⟩
    omega
  · intro ha
    exact ⟨a / 128, by omega, a % 128, by omega, by omega⟩

/-- A loop of zeros over every address of GRAM leaves no cell listed. -/
theorem Memory.fill_zero_eq_nil {as : List Nat} (has : ∀ a, a ∈ as ↔ a < 1024) {m : Memory} (h : m.wf = true) :
    Memory.fill 0x00#8 as m = [] := by
  obtain ⟨hwf, hread⟩ := Memory.fill_spec (v := 0x00#8) (fun a => (has a).1) h
  refine Memory.ext_of_wf hwf rfl fun b => ?_
  rw [hread, Memory.read_nil]
  split
  · rfl
  · next hb => exact Memory.read_above h (Nat.le_of_not_lt fun hlt => hb ((has b).2 hlt))

/-! ## The answers -/

theorem State.done_of_idle {s : State} (h : s.seq.st = .idle) (v : Bool) :
    s.done v = { s with rsp := { valid := true, bit := v } } := by
  rw [State.done, Seq.set_idle h]

theorem pixelInRange_eq_true {x y : Byte} : pixelInRange x y = true ↔ x.toNat < 128 ∧ y.toNat < 64 :=
  decide_eq_true_iff

/-- PIXSET on a pixel of the display rewrites its cell by the colour's operation, for colour 3 too: there it writes back
what the cell holds. -/
theorem execPixset_inside {x y : Byte} {color : Color} {s t : State} (hwf : s.gram.wf = true)
    (hin : x.toNat < 128 ∧ y.toNat < 64) :
    execPixset x y color s = .next t ↔ s.seq.st = .idle ∧
      t = (s.setCell (pageOf y) x.toNat (applyColor color (s.cell (pageOf y) x.toNat) (maskOf y))).done false := by
  have hrange := pixelInRange_eq_true.2 hin
  rw [execPixset_eq_next]
  by_cases hcolor : color = .reserved3
  · subst hcolor
    simp [applyColor, State.setCell_cell_self hwf (cellAddr_pixel_lt hrange)]
  · rw [if_pos ⟨hrange, hcolor⟩]

/-- PIXSET outside the display is dropped. -/
theorem execPixset_outside {x y : Byte} {color : Color} {s t : State} (hout : ¬(x.toNat < 128 ∧ y.toNat < 64)) :
    execPixset x y color s = .next t ↔ s.seq.st = .idle ∧ t = s.done false := by
  rw [execPixset_eq_next, if_neg fun h => hout (pixelInRange_eq_true.1 h.1)]

theorem execPixset_keeps_wf {x y : Byte} {color : Color} {s t : State} (h : execPixset x y color s = .next t)
    (hwf : s.gram.wf = true) : t.gram.wf = true := by
  obtain ⟨-, rfl⟩ := execPixset_eq_next.1 h
  rw [State.done_gram]
  split
  · next hin => exact Memory.wf_write hwf (cellAddr_pixel_lt hin.1)
  · exact hwf

/-- Each pixel after a PIXSET that completed. -/
theorem execPixset_pixel {x y : Byte} {color : Color} {s t : State} (h : execPixset x y color s = .next t)
    (hwf : s.gram.wf = true) (hx : x.toNat < 128) (hy : y.toNat < 64) {x' y' : Nat} (hx' : x' < 128) :
    t.pixel x' y' = if x' = x.toNat ∧ y' = y.toNat then color.onPixel (s.pixel x' y') else s.pixel x' y' := by
  obtain ⟨t', ht', hpixel⟩ := exec_pixset_pixel color (execPixset_eq_next.1 h).1 hwf hx hy
  obtain rfl : t = t' := Host.Outcome.next.inj (h.symm.trans ht')
  exact hpixel x' y' hx'

/-- The colour INVERSE undoes itself: each write flips the same bit. -/
theorem applyColor_inverse_twice (cell mask : Byte) :
    applyColor .inverse (applyColor .inverse cell mask) mask = cell := by
  rw [applyColor, applyColor, BitVec.xor_assoc, BitVec.xor_self, BitVec.xor_zero]

/-- PIXSET INVERSE twice restores GRAM (40_framebuffer_ops.md R73), inside the display and outside. -/
theorem execPixset_inverse_twice {x y : Byte} {s t u : State} (hwf : s.gram.wf = true)
    (ht : execPixset x y .inverse s = .next t) (hu : execPixset x y .inverse t = .next u) : u.gram = s.gram := by
  by_cases hin : x.toNat < 128 ∧ y.toNat < 64
  · have hlt := cellAddr_pixel_lt (pixelInRange_eq_true.2 hin)
    obtain ⟨-, rfl⟩ := (execPixset_inside (execPixset_keeps_wf ht hwf) hin).1 hu
    obtain ⟨-, rfl⟩ := (execPixset_inside hwf hin).1 ht
    simp only [State.cell, State.done_gram, State.setCell_gram, Memory.read_write hwf, if_true,
      applyColor_inverse_twice]
    rw [Memory.write_write hwf hlt, Memory.write_read_self hwf hlt]
  · obtain ⟨-, rfl⟩ := (execPixset_outside hin).1 hu
    obtain ⟨-, rfl⟩ := (execPixset_outside hin).1 ht
    rfl

theorem execPixget_outside {x y : Byte} {s : State} (hidle : s.seq.st = .idle)
    (hout : ¬(x.toNat < 128 ∧ y.toNat < 64)) : execPixget x y s = .refused .pixgetOutside := by
  rw [execPixget, whenIdle_idle hidle, if_neg fun h => hout (pixelInRange_eq_true.1 h)]

/-! ## The statements -/

/-- Settles O9: in range the memory is `setCell`'s, out of range it is the old one. -/
theorem pixsetRewritesOneCell : Obligations.PixsetRewritesOneCell := by
  intro s x y color hidle hwf
  by_cases hin : x.toNat < 128 ∧ y.toNat < 64
  · have hexec := (execPixset_inside (color := color) hwf hin).2 ⟨hidle, rfl⟩
    rw [State.done_of_idle (s := s.setCell _ _ _) hidle] at hexec
    refine ⟨_, hexec, fun hout => absurd hin hout, fun _ p c _ hc => ?_⟩
    refine (State.cell_setCell hwf hin.1 hc).trans ?_
    rw [pageOf]
    by_cases hcell : p = y.toNat / 8 ∧ c = x.toNat
    · rw [if_pos hcell, if_pos hcell]
      obtain ⟨rfl, rfl⟩ := hcell
      cases color <;> rfl
    · rw [if_neg hcell, if_neg hcell]
      rfl
  · have hexec := (execPixset_outside (color := color) hin).2 ⟨hidle, rfl⟩
    rw [State.done_of_idle hidle] at hexec
    exact ⟨s.gram, hexec, fun _ => rfl, fun h => absurd h hin⟩

/-- Settles O10: black undoes white pixel by pixel, and INVERSE its own bit of the one cell. -/
theorem frameBufferLaws : Obligations.FrameBufferLaws := by
  refine ⟨fun s t u x y hwf hx hy ht hu => ?_, fun s t ht p c _ _ => ?_, fun s t u x y hwf ht hu => ?_,
    fun s t x y color hout ht => ?_⟩
  · have hpixel {x' y' : Nat} := execPixset_pixel (x' := x') (y' := y') ht hwf hx hy
    have hpixel' {x' y' : Nat} := execPixset_pixel (x' := x') (y' := y') hu (execPixset_keeps_wf ht hwf) hx hy
    refine ⟨?_, fun x' y' hx' _ hne => ?_⟩
    · rw [hpixel' hx, if_pos ⟨rfl, rfl⟩, Color.onPixel]
    · rw [hpixel' hx', if_neg hne, hpixel hx', if_neg hne]
  · obtain ⟨-, rfl⟩ := execClear_eq_next.1 ht
    exact cell_of_gram_nil rfl p c
  · exact execPixset_inverse_twice hwf ht hu
  · obtain ⟨-, rfl⟩ := (execPixset_outside hout).1 ht
    rfl

/-- Settles O12: the canonical memory that reads zero everywhere is the empty list, which CLEAR leaves. -/
theorem clearIsItsLoop : Obligations.ClearIsItsLoop := by
  intro s t hwf ht
  obtain ⟨-, rfl⟩ := execClear_eq_next.1 ht
  exact (Memory.fill_zero_eq_nil (fun _ => mem_clearLoop) hwf).symm

/-- Settles O11: CLEAR leaves no cell listed. -/
theorem clearZeroesEveryCell : Obligations.ClearZeroesEveryCell := by
  intro s hidle
  have hclear := execClear_eq_next.2 ⟨hidle, rfl⟩
  rw [State.done_of_idle (s := { s with gram := [] }) hidle] at hclear
  exact ⟨[], hclear, fun p c _ _ => Memory.read_nil (p * 128 + c)⟩

/-- Settles O13: in range PIXGET answers the pixel. -/
theorem pixgetReturnsThePixel : Obligations.PixgetReturnsThePixel := by
  intro s x y hidle hx hy
  have hpixget := execPixget_eq_next.2 ⟨hidle, pixelInRange_eq_true.2 ⟨hx, hy⟩, rfl⟩
  rwa [State.done_of_idle hidle] at hpixget

/-- Settles O14: at either grain the accept step of a PIXGET is its exec. -/
theorem pixgetOutsideIsRefused : Obligations.PixgetOutsideIsRefused := by
  intro s x y hout
  refine ⟨fun hidle => execPixget_outside hidle hout, fun w rest hp hw => ?_⟩
  have hexec : exec (.pixget x y) (s.latch w rest) = .refused .pixgetOutside := execPixget_outside hp.idle hout
  rw [step_presents hp]
  cases hg : s.grain <;> simp [acceptRequest, hw, hg, acceptOp, hexec]

end Sys2Proof.Machine
end

section
/-! What an operation that only emits events answers from an idle state over a transport that answers, and so SETPOS and
DATA (41_addressing_and_data.md R80, R81). -/

namespace Sys2Proof.Machine

/-- An idle state's emitting operation delivers its events and answers 0; `SEQ` does not change. -/
theorem whenIdle_emitAndFinish {s : State} (hidle : s.seq.st = .idle) (hd : s.busDone = true) (es : List BusEvent) :
    whenIdle s (emitAndFinish es) = .next { s.deliverAll es with rsp := { valid := true, bit := false } } := by
  have hdone := State.done_of_idle (s := s.deliverAll es) hidle false
  exact whenIdle_eq_next.2 ⟨hidle, emitAndFinish_eq_next.2 ⟨hd, hdone.symm⟩⟩

/-- Settles O15: the events are the triplet. -/
theorem setposSendsTheTriplet : Obligations.SetposSendsTheTriplet :=
  fun _ x page hidle hd => whenIdle_emitAndFinish hidle hd (triplet x page)

/-- Settles O17: the one event is the byte's. -/
theorem dataSendsOneByte : Obligations.DataSendsOneByte :=
  fun _ b hidle hd => whenIdle_emitAndFinish hidle hd [dataEvent b]

end Sys2Proof.Machine
end

section
/-! INIT, WAKE and SLEEP from an idle state (42_init_and_power.md R90 to R92). -/

namespace Sys2Proof.Machine

/-- Over a valid transport that answers, INIT delivers its list, sets READY and answers 1; `SEQ` does not change. -/
theorem execInit_valid {s : State} (hidle : s.seq.st = .idle) (hok : s.busOk = true) (hd : s.busDone = true) :
    execInit s = .next { s.deliverAll (initSeq.map cmdEvent) with
      ready := true, rsp := { valid := true, bit := true } } := by
  have hdone := State.done_of_idle (s := (s.deliverAll (initSeq.map cmdEvent)).setReady true) hidle true
  rw [execInit, whenIdle_idle hidle, if_pos hok, busWrites_done hd, andThen_next, hdone]
  rfl

/-- Over an invalid transport, answering or not, INIT sends nothing, clears READY and answers 0. -/
theorem execInit_invalid {s : State} (hidle : s.seq.st = .idle) (hok : s.busOk = false) :
    execInit s = .next { s with ready := false, rsp := { valid := true, bit := false } } := by
  have hdone := State.done_of_idle (s := s.setReady false) hidle false
  rw [execInit, whenIdle_idle hidle, if_neg (Bool.eq_false_iff.1 hok), hdone]
  rfl

/-- Settles O18: the delivered list is `INIT_SEQ`, and a valid transport appends it to TRACE. -/
theorem initSendsTheSequenceAndSetsReady : Obligations.InitSendsTheSequenceAndSetsReady := by
  refine ⟨fun s hidle hok hd => ?_, fun s hidle hok => execInit_invalid hidle hok⟩
  have hinit := execInit_valid hidle hok hd
  rwa [State.deliverAll, if_pos hok] at hinit

/-- Settles O19: the events are `WAKE_SEQ`'s. -/
theorem wakeSendsItsBytes : Obligations.WakeSendsItsBytes :=
  fun _ hidle hd => whenIdle_emitAndFinish hidle hd (wakeSeq.map cmdEvent)

/-- Settles O20: the events are `SLEEP_SEQ`'s, whatever its parameter. -/
theorem sleepSendsItsBytes : Obligations.SleepSendsItsBytes :=
  fun s hidle hd => whenIdle_emitAndFinish hidle hd ((sleepSeq s.params).map cmdEvent)

end Sys2Proof.Machine
end

section
/-! The refresh streams (43_refresh.md R100 to R102): the places of their events, what REFRANGE answers in each of its
cases, and a full refresh as eight whole-page ranged refreshes. -/

namespace Sys2Proof.Machine

/-! ## The places of the events -/

/-- The cells of a stream stand after the three events of the position. -/
theorem triplet_streamEvents_cell (x pg : Byte) (m : Memory) (page first : Nat) {n k : Nat} (hk : k < n) :
    (triplet x pg ++ streamEvents m page first n)[3 + k]? =
      some ⟨.data, m.read (page * 128 + (first + k))⟩ := by
  rw [List.getElem?_append_right (Nat.le_add_right 3 k), triplet_length, Nat.add_sub_cancel_left]
  simp [streamEvents, hk, dataEvent, cellAddr]

theorem rangeEvents_length (m : Memory) (page : Byte) {a z : Byte} (haz : a.toNat ≤ z.toNat) :
    (rangeEvents m page a z).length = 3 + (z.toNat - a.toNat + 1) := by
  rw [rangeEvents, List.length_append, triplet_length, streamEvents_length, Nat.sub_add_comm haz]

/-- The cells of a ranged refresh reach to `endCol`, included. -/
theorem rangeEvents_cell (m : Memory) (page : Byte) {a z : Byte} (haz : a.toNat ≤ z.toNat) {k : Nat}
    (hk : k ≤ z.toNat - a.toNat) :
    (rangeEvents m page a z)[3 + k]? = some ⟨.data, m.read (page.toNat * 128 + (a.toNat + k))⟩ :=
  triplet_streamEvents_cell a page m page.toNat a.toNat (by omega)

theorem rangeEvents_getLast? (m : Memory) (page : Byte) {a z : Byte} (haz : a.toNat ≤ z.toNat) :
    (rangeEvents m page a z).getLast? = some ⟨.data, m.read (page.toNat * 128 + z.toNat)⟩ := by
  have hcell := rangeEvents_cell m page haz (Nat.le_refl (z.toNat - a.toNat))
  rw [Nat.add_sub_cancel' haz] at hcell
  rw [List.getLast?_eq_getElem?, rangeEvents_length m page haz]
  exact hcell

/-- A page of a full refresh is the ranged refresh of its whole width (43_refresh.md R101 d). -/
theorem pageEvents_eq_rangeEvents (m : Memory) {p : Nat} (hp : p < 8) :
    pageEvents m p = rangeEvents m (BitVec.ofNat 8 p) 0x00#8 0x7F#8 := by
  have hto : (BitVec.ofNat 8 p).toNat = p := Nat.mod_eq_of_lt (by omega)
  rw [rangeEvents, hto]
  rfl

theorem pageEvents_cell (m : Memory) (p : Nat) {c : Nat} (hc : c < 128) :
    (pageEvents m p)[3 + c]? = some ⟨.data, m.read (p * 128 + c)⟩ := by
  rw [pageEvents, triplet_streamEvents_cell _ _ m p 0 hc, Nat.zero_add]

theorem pages_length (m : Memory) (n : Nat) : ((List.range n).flatMap (pageEvents m)).length = 131 * n := by
  simp [List.length_flatMap, Nat.mul_comm]

/-- Page `p` of the first `n` pages starts at `131 p`: every page before it is 131 events. -/
theorem pages_getElem? (m : Memory) {n p k : Nat} (hp : p < n) (hk : k < 131) :
    ((List.range n).flatMap (pageEvents m))[131 * p + k]? = (pageEvents m p)[k]? := by
  induction n with
  | zero => exact absurd hp (Nat.not_lt_zero p)
  | succ n ih =>
    rw [List.range_succ, List.flatMap_append, List.flatMap_singleton]
    obtain hlt | rfl := Nat.lt_succ_iff_lt_or_eq.1 hp
    · rw [List.getElem?_append_left (by rw [pages_length]; omega), ih hlt]
    · rw [List.getElem?_append_right (by rw [pages_length]; omega), pages_length, Nat.add_sub_cancel_left]

theorem refreshEvents_getElem? (m : Memory) {p k : Nat} (hp : p < 8) (hk : k < 131) :
    (refreshEvents m)[131 * p + k]? = (pageEvents m p)[k]? :=
  pages_getElem? m hp hk

/-- The cell of column `c` of page `p` stands after the three events of the page's position. -/
theorem refreshEvents_cell (m : Memory) {p c : Nat} (hp : p < 8) (hc : c < 128) :
    (refreshEvents m)[131 * p + 3 + c]? = some ⟨.data, m.read (p * 128 + c)⟩ := by
  rw [Nat.add_assoc, refreshEvents_getElem? m hp (by omega), pageEvents_cell m p hc]

theorem refreshEvents_getLast? (m : Memory) :
    (refreshEvents m).getLast? = some ⟨.data, m.read 1023⟩ := by
  rw [List.getLast?_eq_getElem?, refreshEvents_length]
  exact refreshEvents_cell m (p := 7) (c := 127) (by decide) (by decide)

/-! ## The answers -/

/-- What an idle state's emitting operation leaves, by the number of its events and the last of them. -/
theorem whenIdle_emitAndFinish_last {s : State} (hidle : s.seq.st = .idle) (hd : s.busDone = true)
    {es : List BusEvent} {e : BusEvent} {n : Nat} (hlast : es.getLast? = some e) (hlen : es.length = n) :
    whenIdle s (emitAndFinish es) =
      .next { s with
        trace := if s.busOk then s.trace ++ es else s.trace
        settles := s.settles + n
        bus := { valid := false, rs := e.tag.code, byte := e.byte }
        rsp := { valid := true, bit := false } } := by
  rw [whenIdle_emitAndFinish hidle hd, State.deliverAll, BusPort.after, hlast, hlen]

theorem execRefresh_idle {s : State} (hidle : s.seq.st = .idle) :
    execRefresh s = whenIdle s (emitAndFinish (refreshEvents s.gram)) := by
  rw [execRefresh, whenIdle_idle hidle, whenIdle_idle hidle]

theorem rangeValid_eq_true {page a z : Byte} :
    rangeValid page a z = true ↔ page.toNat < 8 ∧ a.toNat < 128 ∧ z.toNat < 128 :=
  decide_eq_true_iff

theorem execRefrange_invalid {page a z : Byte} {s : State} (hidle : s.seq.st = .idle)
    (hinvalid : ¬(page.toNat < 8 ∧ a.toNat < 128 ∧ z.toNat < 128)) :
    execRefrange page a z s = .next { s with rsp := { valid := true, bit := false } } := by
  rw [execRefrange, whenIdle_idle hidle, if_neg (mt rangeValid_eq_true.1 hinvalid), State.done_of_idle hidle]

/-- A valid span in order emits its events. -/
theorem execRefrange_inOrder {page a z : Byte} {s : State} (hidle : s.seq.st = .idle)
    (hvalid : page.toNat < 8 ∧ a.toNat < 128 ∧ z.toNat < 128) (haz : a.toNat ≤ z.toNat) :
    execRefrange page a z s = whenIdle s (emitAndFinish (rangeEvents s.gram page a z)) := by
  rw [execRefrange, whenIdle_idle hidle, whenIdle_idle hidle, if_pos (rangeValid_eq_true.2 hvalid), if_pos haz]

/-- A valid span reversed answers as the policy says: its position alone, nothing, or a refusal. -/
theorem execRefrange_reversed {page a z : Byte} {s : State} (hidle : s.seq.st = .idle)
    (hvalid : page.toNat < 8 ∧ a.toNat < 128 ∧ z.toNat < 128) (hza : z.toNat < a.toNat) :
    (s.params.rangeReversed = .setposOnly →
      execRefrange page a z s = whenIdle s (emitAndFinish (triplet a page))) ∧
    (s.params.rangeReversed = .noop →
      execRefrange page a z s = .next { s with rsp := { valid := true, bit := false } }) ∧
    (s.params.rangeReversed = .refuse → execRefrange page a z s = .refused .reversedRange) := by
  rw [execRefrange, whenIdle_idle hidle, whenIdle_idle hidle, if_pos (rangeValid_eq_true.2 hvalid),
    if_neg (Nat.not_le.2 hza), ← State.done_of_idle hidle]
  refine ⟨fun hpolicy => ?_, fun hpolicy => ?_, fun hpolicy => ?_⟩ <;> rw [hpolicy]

/-- Settles O21: each page's 131 events stand at their place in the stream, and the last event is the last cell. -/
theorem refreshStreamsEveryPage : Obligations.RefreshStreamsEveryPage := by
  intro s hidle hd
  have hlen := refreshEvents_length s.gram
  have hanswer := whenIdle_emitAndFinish_last hidle hd (refreshEvents_getLast? s.gram) hlen
  refine ⟨refreshEvents s.gram, (execRefresh_idle hidle).trans hanswer, hlen, fun p hp => ?_⟩
  exact ⟨refreshEvents_getElem? s.gram (k := 0) hp (by decide), refreshEvents_getElem? s.gram (k := 1) hp (by decide),
    refreshEvents_getElem? s.gram (k := 2) hp (by decide), fun c hc => refreshEvents_cell s.gram hp hc⟩

/-- Settles O22: the cases are those of execRefrange, and the span's events stand at their places. -/
theorem refrangeStreamsItsSpan : Obligations.RefrangeStreamsItsSpan := by
  intro s page a z hidle
  refine ⟨execRefrange_invalid hidle, fun hp ha hz haz hd => ?_, fun hp ha hz hza => ?_⟩
  · have hlen := rangeEvents_length s.gram page haz
    have hanswer := (execRefrange_inOrder hidle ⟨hp, ha, hz⟩ haz).trans
      (whenIdle_emitAndFinish_last hidle hd (rangeEvents_getLast? s.gram page haz) hlen)
    exact ⟨_, hanswer, hlen, rfl, rfl, rfl, fun k hk => rangeEvents_cell s.gram page haz hk⟩
  · obtain ⟨hsetpos, hnoop, hrefuse⟩ := execRefrange_reversed hidle ⟨hp, ha, hz⟩ hza
    exact ⟨fun hpolicy hd => (hsetpos hpolicy).trans (whenIdle_emitAndFinish hidle hd _), hnoop, hrefuse⟩

/-! ## Eight whole pages (43_refresh.md R101 d) -/

/-- Writing one list of events after another is writing both (20_memory.md R37). -/
theorem State.deliverAll_append (es fs : List BusEvent) (s : State) :
    s.deliverAll (es ++ fs) = (s.deliverAll es).deliverAll fs := by
  induction es generalizing s with
  | nil => rw [List.nil_append, State.deliverAll_nil]
  | cons e es ih => rw [List.cons_append, State.deliverAll_cons, ih, State.deliverAll_cons]

theorem exec_wholePage {s : State} (hidle : s.seq.st = .idle) (hd : s.busDone = true) {p : Nat} (hp : p < 8) :
    exec (.refrange (BitVec.ofNat 8 p) 0x00#8 0x7F#8) s =
      .next ((s.deliverAll (pageEvents s.gram p)).done false) := by
  have hvalid : (BitVec.ofNat 8 p).toNat < 8 := Nat.lt_of_le_of_lt (Nat.mod_le p _) hp
  rw [pageEvents_eq_rangeEvents s.gram hp]
  exact (execRefrange_inOrder hidle ⟨hvalid, by decide, by decide⟩ (by decide)).trans
    (whenIdle_eq_next.2 ⟨hidle, emitAndFinish_eq_next.2 ⟨hd, rfl⟩⟩)

/-- The whole-page ranged refreshes of the first `n + 1` pages leave what one operation that emits all their events
leaves: the completion between two of them is lost in the next. -/
theorem foldl_wholePages {s : State} (hidle : s.seq.st = .idle) (hd : s.busDone = true) {n : Nat} (hn : n < 8) :
    (List.range (n + 1)).foldl
        (fun r p => andThen r (exec (.refrange (BitVec.ofNat 8 p) 0x00#8 0x7F#8))) (.next s) =
      .next ((s.deliverAll ((List.range (n + 1)).flatMap (pageEvents s.gram))).done false) := by
  induction n with
  | zero =>
    rw [Nat.zero_add, List.range_one, List.flatMap_singleton]
    exact exec_wholePage hidle hd hn
  | succ n ih =>
    rw [List.range_succ, List.foldl_append, ih (by omega), List.flatMap_append, List.flatMap_singleton,
      State.deliverAll_append]
    exact exec_wholePage (s := (s.deliverAll _).done false) rfl hd hn

/-- Settles O23: both are one emission of the events of the eight pages. -/
theorem refreshIsEightWholePages : Obligations.RefreshIsEightWholePages := by
  intro s hidle hd
  exact ⟨_, _, execRefresh_eq_next.2 ⟨hidle, emitAndFinish_eq_next.2 ⟨hd, rfl⟩⟩,
    foldl_wholePages hidle hd (n := 7) (by decide), rfl⟩

end Sys2Proof.Machine
end

section
/-! The step of a busy sequencer (44_sequencer.md R112 to R117, R120, R122): the event of each position, the update of
`SEQ` in each state, and the step made of the two. -/

namespace Sys2Proof.Machine

/-! ## The event of a position -/

theorem seqEvent_list {s : State} {b : Byte} (hst : s.seq.st = .list)
    (hb : (seqRom s.params s.seq.list)[s.seq.i.toNat]? = some b) : seqEvent s = .ok (cmdEvent b) := by
  simp [seqEvent, hst, hb]

theorem seqEvent_pos {s : State} {e : BusEvent} (hst : s.seq.st = .pos)
    (he : (triplet s.seq.x s.seq.pg)[s.seq.i.toNat]? = some e) : seqEvent s = .ok e := by
  unfold seqEvent
  rw [hst]
  match hi : s.seq.i.toNat with
  | 0 | 1 | 2 =>
    rw [hi] at he
    exact congrArg Except.ok (Option.some.inj he)
  | k + 3 =>
    rw [hi] at he
    cases he

theorem seqEvent_data {s : State} (hst : s.seq.st = .data) : seqEvent s = .ok (dataEvent (aField s.req)) := by
  simp [seqEvent, hst]

theorem seqEvent_stream {s : State} (hst : s.seq.st = .stream) (hpg : s.seq.pg.toNat < 8)
    (hcol : s.seq.col.toNat < 128) :
    seqEvent s = .ok (dataEvent (s.gram.read (cellAddr s.seq.pg.toNat s.seq.col.toNat))) := by
  simp [seqEvent, hst, State.cellChecked, hpg, hcol, State.cell]

/-- A busy sequencer at a legal position has an event to emit (44_sequencer.md R113 to R116). -/
theorem seqEvent_of_seqLegal {s : State} (hbusy : s.seq.st ≠ .idle) (h : s.seqLegal = true) :
    ∃ e, seqEvent s = .ok e := by
  cases hst : s.seq.st with
  | idle => exact absurd hst hbusy
  | list => exact ⟨_, seqEvent_list hst (List.getElem?_eq_getElem ((seqLegal_list hst).1 h))⟩
  | pos =>
    obtain ⟨hi, -⟩ := (seqLegal_pos hst).1 h
    exact ⟨_, seqEvent_pos hst (List.getElem?_eq_getElem (l := triplet s.seq.x s.seq.pg) hi)⟩
  | stream =>
    obtain ⟨-, hpg, hle, hlast⟩ := (seqLegal_stream hst).1 h
    exact ⟨_, seqEvent_stream hst hpg (by omega)⟩
  | data => exact ⟨_, seqEvent_data hst⟩

/-! ## The update of SEQ -/

/-- The end of an operation that emits events: INIT sets READY and answers 1, the others answer 0. -/
def State.finish (isInit : Bool) (s : State) : State :=
  { s with
    ready := isInit || s.ready
    seq := { s.seq with st := .idle }
    rsp := { valid := true, bit := isInit } }

/-- A list ends as its operation does (44_sequencer.md R113). -/
theorem State.finish_list (l : SeqList) (s : State) :
    s.finish (l == .init) = if l = .init then (s.setReady true).done true else s.done false := by
  cases l <;> rfl

theorem advance_of_list {s : State} (hst : s.seq.st = .list) :
    advance s =
      if s.seq.i.toNat + 1 = (seqRom s.params s.seq.list).length then s.finish (s.seq.list == .init)
      else { s with seq := { s.seq with i := s.seq.i + 1#5 } } := by
  unfold advance
  rw [hst]
  cases s.seq.list <;> rfl

theorem advance_of_pos {s : State} (hst : s.seq.st = .pos) :
    advance s =
      if s.seq.i = 0#5 then { s with seq := { s.seq with i := 1#5 } }
      else if s.seq.i = 1#5 then { s with seq := { s.seq with i := 2#5 } }
      else if s.seq.strm then { s with seq := { s.seq with st := .stream } }
      else s.done false := by
  unfold advance
  rw [hst]

theorem advance_pos_zero {s : State} (hst : s.seq.st = .pos) (hi : s.seq.i = 0#5) :
    advance s = { s with seq := { s.seq with i := 1#5 } } := by
  rw [advance_of_pos hst, if_pos hi]

theorem advance_pos_one {s : State} (hst : s.seq.st = .pos) (hi : s.seq.i = 1#5) :
    advance s = { s with seq := { s.seq with i := 2#5 } } := by
  simp [advance_of_pos hst, hi]

theorem advance_pos_two_stream {s : State} (hst : s.seq.st = .pos) (hi : s.seq.i = 2#5) (hstrm : s.seq.strm = true) :
    advance s = { s with seq := { s.seq with st := .stream } } := by
  simp [advance_of_pos hst, hi, hstrm]

theorem advance_pos_two_done {s : State} (hst : s.seq.st = .pos) (hi : s.seq.i = 2#5) (hstrm : s.seq.strm = false) :
    advance s = s.done false := by
  simp [advance_of_pos hst, hi, hstrm]

theorem advance_of_stream {s : State} (hst : s.seq.st = .stream) :
    advance s =
      if s.seq.col ≠ s.seq.last then { s with seq := { s.seq with col := s.seq.col + 1#8 } }
      else if s.seq.full ∧ s.seq.pg ≠ 7#8 then
        { s with seq := { s.seq with pg := s.seq.pg + 1#8, x := 0#8, col := 0#8, i := 0#5, st := .pos } }
      else s.done false := by
  unfold advance
  rw [hst]

theorem advance_stream_nextPage {s : State} (hst : s.seq.st = .stream) (hcol : s.seq.col = s.seq.last)
    (hfull : s.seq.full = true) (hpg : s.seq.pg ≠ 7#8) :
    advance s =
      { s with seq := { s.seq with pg := s.seq.pg + 1#8, x := 0#8, col := 0#8, i := 0#5, st := .pos } } := by
  rw [advance_of_stream hst, if_neg (not_not.2 hcol), if_pos ⟨hfull, hpg⟩]

theorem advance_stream_done {s : State} (hst : s.seq.st = .stream) (hcol : s.seq.col = s.seq.last)
    (hend : s.seq.full = true → s.seq.pg = 7#8) : advance s = s.done false := by
  rw [advance_of_stream hst, if_neg (not_not.2 hcol), if_neg fun h => h.2 (hend h.1)]

theorem advance_of_data {s : State} (hst : s.seq.st = .data) : advance s = s.done false := by
  unfold advance
  rw [hst]

/-! ## The step -/

theorem step_busy {s : State} (hrst : s.rst = false) (hbusy : s.seq.st ≠ .idle) : step s = busyStep s := by
  simp [step, hrst, hbusy]

/-- No reset, steps of one bus write, and a transport that answers: each step of a busy DCB takes one bus write. -/
def State.Answering (s : State) : Prop := s.rst = false ∧ s.grain = .busWrite ∧ s.busDone = true

theorem step_delivers {s : State} {e : BusEvent} (ha : s.Answering) (hbusy : s.seq.st ≠ .idle)
    (he : seqEvent s = .ok e) : step s = .next (advance (s.deliver e)) := by
  obtain ⟨hrst, hgrain, hd⟩ := ha
  simp only [step_busy hrst hbusy, busyStep, hgrain]
  exact busStep_eq_next.2 ⟨e, he, .inl ⟨hd, rfl⟩⟩

theorem step_waits {s : State} {e : BusEvent} (hrst : s.rst = false) (hgrain : s.grain = .busWrite)
    (hd : s.busDone = false) (hbusy : s.seq.st ≠ .idle) (he : seqEvent s = .ok e) : step s = .next (s.present e) := by
  simp only [step_busy hrst hbusy, busyStep, hgrain]
  exact busStep_eq_next.2 ⟨e, he, .inr ⟨hd, rfl⟩⟩

/-- Settles O33: the list is the one that `SEQ.list` names. -/
theorem listStepSendsTheNextByte : Obligations.ListStepSendsTheNextByte := by
  intro s t bytes b hrst hgrain hd hst hbytes hb ht
  have hrom : seqRom s.params s.seq.list = bytes := by
    rw [hbytes]
    cases s.seq.list <;> rfl
  subst hrom ht
  obtain ⟨hlt, -⟩ := List.getElem?_eq_some_iff.1 hb
  have hlast : s.seq.i.toNat + 1 = (seqRom s.params s.seq.list).length ↔
      s.seq.i.toNat = (seqRom s.params s.seq.list).length - 1 := by omega
  rw [step_delivers ⟨hrst, hgrain, hd⟩ (by simp [hst]) (seqEvent_list hst hb),
    advance_of_list (s := s.deliver _) hst]
  simp only [State.deliver_seq, State.deliver_params, hlast, State.finish_list]
  rfl

/-- Settles O34: the events of the three positions are the triplet's. -/
theorem posStepSendsTheTripletByte : Obligations.PosStepSendsTheTripletByte := by
  intro s hrst hgrain hd hst
  have hstep {e : BusEvent} (he : (triplet s.seq.x s.seq.pg)[s.seq.i.toNat]? = some e) :=
    step_delivers ⟨hrst, hgrain, hd⟩ (by simp [hst]) (seqEvent_pos hst he)
  refine ⟨fun hi => ?_, fun hi => ?_, fun hi hstrm => ?_, fun hi hstrm => ?_⟩
  · rw [hstep (by rw [hi]; rfl), advance_pos_zero (s := s.deliver _) hst hi]
    rfl
  · rw [hstep (by rw [hi]; rfl), advance_pos_one (s := s.deliver _) hst hi]
    rfl
  · rw [hstep (by rw [hi]; rfl), advance_pos_two_stream (s := s.deliver _) hst hi hstrm]
    rfl
  · rw [hstep (by rw [hi]; rfl), advance_pos_two_done (s := s.deliver _) hst hi hstrm]
    rfl

/-- Settles O35. -/
theorem dataStepSendsTheLatchedByte : Obligations.DataStepSendsTheLatchedByte := by
  intro s hrst hgrain hd hst
  rw [step_delivers ⟨hrst, hgrain, hd⟩ (by simp [hst]) (seqEvent_data hst), advance_of_data (s := s.deliver _) hst]
  rfl

/-- Settles O36: a legal stream position lies inside GRAM. -/
theorem streamStepSendsTheNextCell : Obligations.StreamStepSendsTheNextCell := by
  intro s t hlegal hrst hgrain hd hst ht
  obtain ⟨-, hseq, -⟩ := legal_iff.1 hlegal
  obtain ⟨-, hpg, hle, hlast⟩ := (seqLegal_stream hst).1 hseq
  refine ⟨⟨hle, by omega, by omega⟩, ?_⟩
  rw [step_delivers ⟨hrst, hgrain, hd⟩ (by simp [hst]) (seqEvent_stream hst hpg (by omega)),
    advance_of_stream (s := s.deliver _) hst, ht]
  rfl

/-- Settles O37: the presented event is the position's, which waiting does not move. -/
theorem busWriteWaitsForTheTransport : Obligations.BusWriteWaitsForTheTransport := by
  intro s hlegal hrst hgrain hd hbusy
  obtain ⟨-, hseq, -⟩ := legal_iff.1 hlegal
  obtain ⟨e, he⟩ := seqEvent_of_seqLegal hbusy hseq
  have hagain : step (s.present e) = .next ((s.present e).present e) :=
    step_waits hrst hgrain hd hbusy (by rw [seqEvent_present, he])
  exact ⟨e, _, he, rfl, step_waits hrst hgrain hd hbusy he, hagain⟩

/-- Settles O32: a busy step without reset waits, or makes one or two bus writes. -/
theorem busyStepKeepsRequestsAndGram : Obligations.BusyStepKeepsRequestsAndGram := by
  intro s t hrst hbusy h
  refine ⟨by simpa [State.reqReady] using hbusy, ?_⟩
  cases step_cases h with
  | resets hrst' => simp [hrst] at hrst'
  | waits => exact ⟨rfl, rfl, rfl⟩
  | writesOne | writesTwo => simp
  | rests _ hidle => exact absurd hidle hbusy
  | ignores hp | runs hp | starts hp => exact absurd hp.idle hbusy

/-- Settles O28. -/
theorem stepRunsTheBusRowAtTheSequencer : Obligations.StepRunsTheBusRowAtTheSequencer := by
  intro s t i n hrst hbusy hgrain hrow hx
  rw [step_fetchRow hrst hgrain (by simpa using hbusy) hrow, hx]
  rfl

/-- Settles O45: what the display still receives is what `cutShort` can be. -/
theorem rstAbandonsTheOperation : Obligations.RstAbandonsTheOperation := by
  intro s hrst
  refine ⟨applyReset s, by simp [step, hrst], rfl, rfl, rfl, rfl, rfl, rfl, rfl, rfl, rfl, rfl,
    applyReset_trace_idle, fun hbusy => ?_⟩
  rw [applyReset_trace_busy hbusy]
  obtain hnone | ⟨hok, e, he, hcut⟩ := cutShort_cases s
  · exact .inl (by rw [hnone, List.append_nil])
  · exact .inr ⟨hok, e, he, by rw [hcut]⟩

end Sys2Proof.Machine
end

section
/-! The step of an idle DCB (44_sequencer.md R110, R111): with no request, with one at the operation grain, and the
accept step. -/

namespace Sys2Proof.Machine

/-- Settles O30. -/
theorem idleWithoutRequestDoesNothing : Obligations.IdleWithoutRequestDoesNothing := by
  intro s hlegal hrst hidle hq
  refine ⟨?_, by simp [State.reqReady, hidle], by simp [hidle], (settled_of_legal_idle hlegal hidle).bus⟩
  simp [step, hrst, hidle, hq, State.quiet]

theorem step_runs {s : State} {w : Word} {rest : List Word} {i : Instr} (hp : s.presents w rest)
    (hgrain : s.grain = .operation) (hw : decodeRequest w = .ok i) : step s = exec i (s.latch w rest) := by
  simp [step_presents hp, acceptRequest, hw, hgrain]

theorem step_accepts {s : State} {w : Word} {rest : List Word} {i : Instr} (hp : s.presents w rest)
    (hgrain : s.grain = .busWrite) (hw : decodeRequest w = .ok i) : step s = acceptOp i (s.latch w rest) := by
  simp [step_presents hp, acceptRequest, hw, hgrain]

/-- Settles O27. -/
theorem stepRunsThePresentedRequest : Obligations.StepRunsThePresentedRequest :=
  fun _ _ _ _ => step_runs

/-! ## The accept step of INIT and REFRANGE, whose row depends on the state -/

theorem acceptOp_init_valid {s : State} (hok : s.busOk = true) : acceptOp .init s = .next (startList .init s) :=
  if_pos hok

theorem acceptOp_init_invalid {s : State} (hok : s.busOk = false) : acceptOp .init s = exec .init s :=
  if_neg (by simp [hok])

theorem acceptOp_refrange_invalid {page a z : Byte} {s : State}
    (hinvalid : ¬(page.toNat < 8 ∧ a.toNat < 128 ∧ z.toNat < 128)) :
    acceptOp (.refrange page a z) s = exec (.refrange page a z) s :=
  if_neg (mt rangeValid_eq_true.1 hinvalid)

theorem acceptOp_refrange_inOrder {page a z : Byte} {s : State}
    (hvalid : page.toNat < 8 ∧ a.toNat < 128 ∧ z.toNat < 128) (haz : a.toNat ≤ z.toNat) :
    acceptOp (.refrange page a z) s = .next (startStream page a z false s) :=
  (if_pos (rangeValid_eq_true.2 hvalid)).trans (if_pos haz)

/-- A valid span reversed is accepted by the policy: its position alone is sent, or no bus write is made. -/
theorem acceptOp_refrange_reversed {page a z : Byte} {s : State}
    (hvalid : page.toNat < 8 ∧ a.toNat < 128 ∧ z.toNat < 128) (hza : z.toNat < a.toNat) :
    acceptOp (.refrange page a z) s =
      if s.params.rangeReversed = .setposOnly then .next (startPos a page s) else exec (.refrange page a z) s := by
  refine (if_pos (rangeValid_eq_true.2 hvalid)).trans ((if_neg (Nat.not_le.2 hza)).trans ?_)
  cases s.params.rangeReversed <;> rfl

/-- Settles O31: the accept step of the decoded operation. -/
theorem acceptStepFollowsItsTable : Obligations.AcceptStepFollowsItsTable := by
  intro s s1 w rest hp hgrain hs1
  subst hs1
  have haccept {i : Instr} (hw : decodeRequest w = .ok i) : step s = acceptOp i (s.latch w rest) :=
    step_accepts hp hgrain hw
  have hidle : (s.latch w rest).seq.st = .idle := hp.idle
  refine ⟨reservedWordIsANoOp s w rest hp, fun _ _ _ => haccept, haccept, fun _ _ => haccept, ?initInvalid,
    ?initValid, haccept, haccept, fun _ _ => haccept, fun _ => haccept, haccept,
    fun page a z hw => ⟨?invalid, fun hpage ha hz => ⟨?inOrder, ?reversed⟩⟩⟩
  case initInvalid =>
    exact fun hw hok =>
      (haccept hw).trans ((acceptOp_init_invalid (s := s.latch w rest) hok).trans (execInit_invalid hidle hok))
  case initValid =>
    exact fun hw hok => (haccept hw).trans (acceptOp_init_valid (s := s.latch w rest) hok)
  case invalid =>
    exact fun h => (haccept hw).trans ((acceptOp_refrange_invalid h).trans (execRefrange_invalid hidle h))
  case inOrder =>
    exact fun haz => (haccept hw).trans (acceptOp_refrange_inOrder ⟨hpage, ha, hz⟩ haz)
  case reversed =>
    intro hza
    obtain ⟨-, hnoop, hrefuse⟩ := execRefrange_reversed hidle ⟨hpage, ha, hz⟩ hza
    have hstep := (haccept hw).trans (acceptOp_refrange_reversed ⟨hpage, ha, hz⟩ hza)
    refine ⟨fun hpolicy => ?_, fun hpolicy => ?_, fun hpolicy => ?_⟩
    · exact hstep.trans (if_pos hpolicy)
    · exact (hstep.trans (if_neg (by simp [hpolicy]))).trans (hnoop hpolicy)
    · exact (hstep.trans (if_neg (by simp [hpolicy]))).trans (hrefuse hpolicy)

end Sys2Proof.Machine
end

section
/-! Runs of bus-write steps (44_sequencer.md R113 to R119): the events a busy sequencer delivers on its way from one
state to another. A run is said without its steps, so it does not depend on the grain or on whether the transport
answers; where each step takes a bus write, it is as many steps as it has events. -/

namespace Sys2Proof.Machine

/-- From `s` the sequencer emits the events in order and stands at `t`, busy at every event. -/
inductive Emits : State → List BusEvent → State → Prop
  | nil (s : State) : Emits s [] s
  | cons {s t : State} {e : BusEvent} {es : List BusEvent} (hbusy : s.seq.st ≠ .idle) (he : seqEvent s = .ok e)
      (h : Emits (advance (s.deliver e)) es t) : Emits s (e :: es) t

theorem Emits.one {s : State} {e : BusEvent} (hbusy : s.seq.st ≠ .idle) (he : seqEvent s = .ok e) :
    Emits s [e] (advance (s.deliver e)) :=
  .cons hbusy he (.nil _)

theorem Emits.append {s t u : State} {es fs : List BusEvent} (h : Emits s es t) (h' : Emits t fs u) :
    Emits s (es ++ fs) u := by
  induction h with
  | nil => exact h'
  | cons hbusy he _ ih => exact .cons hbusy he (ih h')

/-- The same state with the sequencer elsewhere. -/
def State.atSeq (q : Seq) (s : State) : State := { s with seq := q }

/-- One bus write inside an operation. -/
theorem emits_move {s : State} {e : BusEvent} {q : Seq} (hbusy : s.seq.st ≠ .idle) (he : seqEvent s = .ok e)
    (hmove : advance (s.deliver e) = (s.deliver e).atSeq q) :
    Emits s [e] ((s.deliver e).atSeq q) :=
  hmove ▸ .one hbusy he

/-! ## A run is that many steps -/

theorem run_succ {M : Host.Core} {s t : M.State} (h : M.step s = .next t) (n : Nat) : M.run (n + 1) s = M.run n t := by
  rw [Host.Core.run, h]

theorem stepsOf_succ {s t : State} (h : step s = .next t) (n : Nat) : stepsOf (n + 1) s = stepsOf n t :=
  run_succ (M := Sys2Proof.core) h n

theorem State.Answering.advance_deliver {s : State} (h : s.Answering) (e : BusEvent) :
    (advance (s.deliver e)).Answering := by
  simpa [State.Answering] using h

/-- A run takes one step per event, and the DCB is busy before each. -/
theorem Emits.steps {s t : State} {es : List BusEvent} (h : Emits s es t) (ha : s.Answering) :
    stepsOf es.length s = .next t ∧ ∀ k < es.length, ∃ v, stepsOf k s = .next v ∧ v.seq.st ≠ .idle := by
  induction h with
  | nil s => exact ⟨rfl, nofun⟩
  | cons hbusy he _ ih =>
    have hstep := step_delivers ha hbusy he
    obtain ⟨hend, hbefore⟩ := ih (ha.advance_deliver _)
    refine ⟨(stepsOf_succ hstep _).trans hend, fun k hk => ?_⟩
    cases k with
    | zero => exact ⟨_, rfl, hbusy⟩
    | succ k =>
      obtain ⟨v, hv, hv'⟩ := hbefore k (by simpa using hk)
      exact ⟨v, (stepsOf_succ hstep k).trans hv, hv'⟩

/-! ## The bus row at a position -/

/-- A byte of a list that is not its last. -/
theorem emits_list_next {s : State} {b : Byte} (hst : s.seq.st = .list)
    (hb : (seqRom s.params s.seq.list)[s.seq.i.toNat]? = some b)
    (hlast : s.seq.i.toNat + 1 ≠ (seqRom s.params s.seq.list).length) :
    Emits s [cmdEvent b] ((s.deliver (cmdEvent b)).atSeq { s.seq with i := s.seq.i + 1#5 }) :=
  emits_move (by simp [hst]) (seqEvent_list hst hb)
    ((advance_of_list (s := s.deliver _) hst).trans (if_neg hlast))

/-- `SEQ.i` does not wrap inside a list. -/
theorem seqIndex_succ {s : State} (h : s.seq.i.toNat < (seqRom s.params s.seq.list).length) :
    (s.seq.i + 1#5).toNat = s.seq.i.toNat + 1 := by
  have hrom := seqRom_length_lt s.params s.seq.list
  simp only [BitVec.toNat_add, BitVec.toNat_ofNat]
  omega

/-- In a list the next two bytes are a run, whose end is two updates of `SEQ` after both writes. -/
theorem emits_two {s : State} {a b : Byte} (hst : s.seq.st = .list)
    (ha : (seqRom s.params s.seq.list)[s.seq.i.toNat]? = some a)
    (hb : (seqRom s.params s.seq.list)[s.seq.i.toNat + 1]? = some b) :
    Emits s [cmdEvent a, cmdEvent b] (advance (advance (s.deliverAll [cmdEvent a, cmdEvent b]))) := by
  obtain ⟨hlt, -⟩ := List.getElem?_eq_some_iff.1 hb
  have hmove : advance ((s.deliver (cmdEvent a)).deliver (cmdEvent b)) =
      ((s.deliver (cmdEvent a)).deliver (cmdEvent b)).atSeq { s.seq with i := s.seq.i + 1#5 } :=
    (advance_of_list (s := (s.deliver _).deliver _) hst).trans (if_neg hlt.ne)
  rw [State.deliverAll_cons, State.deliverAll_one, hmove]
  rw [← seqIndex_succ (by omega)] at hb
  have hsecond := Emits.one (s := (s.deliver (cmdEvent a)).atSeq { s.seq with i := s.seq.i + 1#5 })
    (by simp [State.atSeq, hst]) (seqEvent_list hst hb)
  exact (emits_list_next hst ha hlt.ne).append hsecond

/-- The same state at the bus-write grain. -/
def State.atBusWrite (s : State) : State := { s with grain := .busWrite }

theorem advance_atBusWrite (s : State) : advance s.atBusWrite = (advance s).atBusWrite := by
  cases hst : s.seq.st with
  | idle => simp [advance, State.atBusWrite, hst]
  | list =>
    rw [advance_of_list hst, advance_of_list (s := s.atBusWrite) hst, apply_ite State.atBusWrite]
    rfl
  | pos =>
    rw [advance_of_pos hst, advance_of_pos (s := s.atBusWrite) hst]
    simp only [apply_ite State.atBusWrite]
    rfl
  | stream =>
    rw [advance_of_stream hst, advance_of_stream (s := s.atBusWrite) hst]
    simp only [apply_ite State.atBusWrite]
    rfl
  | data =>
    rw [advance_of_data hst, advance_of_data (s := s.atBusWrite) hst]
    rfl

/-- A run does not read the grain. -/
theorem Emits.atBusWrite {s t : State} {es : List BusEvent} (h : Emits s es t) :
    Emits s.atBusWrite es t.atBusWrite := by
  induction h with
  | nil => exact .nil _
  | cons hbusy he _ ih =>
    rw [← advance_atBusWrite] at ih
    exact .cons hbusy he ih

/-- A row's step is a run of as many events as the row fetched has. -/
theorem emits_of_fetchRow {s t : State} {i : Instr} {n : Nat} (hbusy : s.seq.st ≠ .idle)
    (hrow : fetchRow s = some (i, n)) (hx : exec i s = .next t) :
    s.busDone = true ∧ ∃ es, es.length = n ∧ Emits s es (advanceBy n t) := by
  obtain ⟨-, ⟨rfl, e, he, hwrites⟩ | ⟨rfl, hlist, a, b, ha, hb, hwrites⟩⟩ := fetchRow_row hrow
  · obtain ⟨hd, rfl⟩ := busWrites_eq_next.1 (hwrites ▸ hx)
    rw [State.deliverAll_one]
    exact ⟨hd, [e], rfl, .one hbusy he⟩
  · obtain ⟨hd, rfl⟩ := busWrites_eq_next.1 (hwrites ▸ hx)
    exact ⟨hd, _, rfl, emits_two hlist ha hb⟩

/-- Settles O41: the row's run, taken at the bus-write grain. -/
theorem rowStepIsItsBusWriteSteps : Obligations.RowStepIsItsBusWriteSteps := by
  intro s t i n hrst hbusy hgrain hrow hstep
  rw [step_fetchRow hrst hgrain (by simpa using hbusy) hrow] at hstep
  obtain ⟨u, hx, ht⟩ := andThen_eq_next.1 hstep
  obtain ⟨hd, es, rfl, hrun⟩ := emits_of_fetchRow hbusy hrow hx
  injection ht with ht
  subst ht
  exact (hrun.atBusWrite.steps ⟨hrst, rfl, hd⟩).1

end Sys2Proof.Machine
end

section
/-! The runs of an operation from its accept step to `finish` (44_sequencer.md R111 to R116): a list, a triplet, a span
and the eight pages of a refresh, each delivering the events of the operation's rule. -/

namespace Sys2Proof.Machine

/-- From `s` the sequencer emits the events and ends idle at `u`, whatever `SEQ` holds there besides. -/
def Completes (s : State) (es : List BusEvent) (u : State) : Prop :=
  ∃ q : Seq, q.st = .idle ∧ Emits s es (u.atSeq q)

/-- A run, then one that ends the operation. -/
theorem Emits.completes {s t u : State} {es fs : List BusEvent} (h : Emits s es t) (h' : Completes t fs u) :
    Completes s (es ++ fs) u := by
  obtain ⟨q, hq, hrun⟩ := h'
  exact ⟨q, hq, h.append hrun⟩

/-- The last bus write of an operation. -/
theorem completes_one {s : State} {e : BusEvent} {v : Bool} (hbusy : s.seq.st ≠ .idle) (he : seqEvent s = .ok e)
    (hend : advance (s.deliver e) = (s.deliver e).finish v) :
    Completes s [e] ((s.deliver e).finish v) :=
  ⟨_, rfl, (hend ▸ .one hbusy he : Emits s [e] ((s.deliver e).finish v))⟩

/-! ## S_LIST, S_DATA -/

/-- The head, the length and the tail of a rest of a list. -/
theorem drop_eq_cons {l : List Byte} {i : Nat} {b : Byte} {bs : List Byte} (h : l.drop i = b :: bs) :
    l[i]? = some b ∧ l.length = i + bs.length + 1 ∧ l.drop (i + 1) = bs := by
  refine ⟨by rw [← List.head?_drop, h, List.head?_cons], ?_, by rw [← List.tail_drop, h, List.tail_cons]⟩
  have hlen := congrArg List.length h
  rw [List.length_drop, List.length_cons] at hlen
  omega

/-- The rest of a list, from the byte at `SEQ.i` on. -/
theorem completes_list {s : State} {b : Byte} {bs : List Byte} (hst : s.seq.st = .list)
    (hrest : (seqRom s.params s.seq.list).drop s.seq.i.toNat = b :: bs) :
    Completes s ((b :: bs).map cmdEvent)
      ((s.deliverAll ((b :: bs).map cmdEvent)).finish (s.seq.list == .init)) := by
  induction bs generalizing s b with
  | nil =>
    obtain ⟨hb, hlen, -⟩ := drop_eq_cons hrest
    rw [List.map_singleton, State.deliverAll_one]
    exact completes_one (by simp [hst]) (seqEvent_list hst hb)
      ((advance_of_list (s := s.deliver _) hst).trans (if_pos hlen.symm))
  | cons b' bs ih =>
    obtain ⟨hb, hlen, htail⟩ := drop_eq_cons hrest
    rw [List.length_cons] at hlen
    have hnext := seqIndex_succ (s := s) (by omega)
    rw [List.map_cons, State.deliverAll_cons]
    exact (emits_list_next hst hb (by omega)).completes
      (ih (s := (s.deliver (cmdEvent b)).atSeq { s.seq with i := s.seq.i + 1#5 }) hst (hnext ▸ htail))

theorem completes_data {s : State} (hst : s.seq.st = .data) :
    Completes s [dataEvent (aField s.req)] ((s.deliverAll [dataEvent (aField s.req)]).finish false) := by
  rw [State.deliverAll_one]
  exact completes_one (by simp [hst]) (seqEvent_data hst) (advance_of_data hst)

/-! ## S_POS -/

theorem emits_pos_zero {s : State} (hst : s.seq.st = .pos) (hi : s.seq.i = 0#5) :
    Emits s [cmdEvent (pageSel s.seq.pg)]
      ((s.deliver (cmdEvent (pageSel s.seq.pg))).atSeq { s.seq with i := 1#5 }) :=
  emits_move (by simp [hst]) (seqEvent_pos hst (by rw [hi]; rfl)) (advance_pos_zero (s := s.deliver _) hst hi)

theorem emits_pos_one {s : State} (hst : s.seq.st = .pos) (hi : s.seq.i = 1#5) :
    Emits s [cmdEvent (colHi s.seq.x)] ((s.deliver (cmdEvent (colHi s.seq.x))).atSeq { s.seq with i := 2#5 }) :=
  emits_move (by simp [hst]) (seqEvent_pos hst (by rw [hi]; rfl)) (advance_pos_one (s := s.deliver _) hst hi)

theorem emits_pos_two {s : State} (hst : s.seq.st = .pos) (hi : s.seq.i = 2#5) :
    Emits s [cmdEvent (colLo s.seq.x)] (advance (s.deliver (cmdEvent (colLo s.seq.x)))) :=
  .one (by simp [hst]) (seqEvent_pos hst (by rw [hi]; rfl))

/-- The triplet, up to the update of `SEQ` after its third byte. -/
theorem emits_triplet {s : State} (hst : s.seq.st = .pos) (hi : s.seq.i = 0#5) :
    Emits s (triplet s.seq.x s.seq.pg)
      (advance ((s.deliverAll (triplet s.seq.x s.seq.pg)).atSeq { s.seq with i := 2#5 })) := by
  rw [triplet, State.deliverAll_cons, State.deliverAll_cons, State.deliverAll_one]
  have hhi := emits_pos_one
    (s := (s.deliver (cmdEvent (pageSel s.seq.pg))).atSeq { s.seq with i := 1#5 }) hst rfl
  have hlo := emits_pos_two
    (s := ((s.deliver (cmdEvent (pageSel s.seq.pg))).deliver (cmdEvent (colHi s.seq.x))).atSeq
      { s.seq with i := 2#5 }) hst rfl
  exact (emits_pos_zero hst hi).append (hhi.append hlo)

/-- A triplet with nothing to stream ends the operation. -/
theorem completes_triplet {s : State} (hst : s.seq.st = .pos) (hi : s.seq.i = 0#5) (hstrm : s.seq.strm = false) :
    Completes s (triplet s.seq.x s.seq.pg) ((s.deliverAll (triplet s.seq.x s.seq.pg)).finish false) := by
  have hend := advance_pos_two_done
    (s := (s.deliverAll (triplet s.seq.x s.seq.pg)).atSeq { s.seq with i := 2#5 }) hst rfl hstrm
  exact ⟨_, rfl, hend ▸ emits_triplet hst hi⟩

/-! ## S_STREAM -/

/-- A cell that is not the last of its span. -/
theorem emits_stream_next {s : State} (hst : s.seq.st = .stream) (hpg : s.seq.pg.toNat < 8)
    (hcol : s.seq.col.toNat < 128) (hne : s.seq.col ≠ s.seq.last) :
    Emits s [dataEvent (s.gram.read (cellAddr s.seq.pg.toNat s.seq.col.toNat))]
      ((s.deliver (dataEvent (s.gram.read (cellAddr s.seq.pg.toNat s.seq.col.toNat)))).atSeq
        { s.seq with col := s.seq.col + 1#8 }) :=
  emits_move (by simp [hst]) (seqEvent_stream hst hpg hcol)
    ((advance_of_stream (s := s.deliver _) hst).trans (if_pos hne))

/-- The cells of a page up to the last column, and the update of `SEQ` after that column. -/
theorem emits_stream {s : State} {n : Nat} (hst : s.seq.st = .stream) (hpg : s.seq.pg.toNat < 8)
    (hlast : s.seq.last.toNat < 128) (hn : s.seq.col.toNat + n = s.seq.last.toNat) :
    Emits s (streamEvents s.gram s.seq.pg.toNat s.seq.col.toNat (n + 1))
      (advance ((s.deliverAll (streamEvents s.gram s.seq.pg.toNat s.seq.col.toNat (n + 1))).atSeq
        { s.seq with col := s.seq.last })) := by
  induction n generalizing s with
  | zero =>
    have hcol : s.seq.last = s.seq.col := BitVec.eq_of_toNat_eq hn.symm
    have he := seqEvent_stream hst hpg (by omega)
    rw [streamEvents_succ, State.deliverAll_cons, hcol]
    exact (State.deliverAll_nil _).symm ▸ .one (by simp [hst]) he
  | succ n ih =>
    have hne : s.seq.col ≠ s.seq.last := fun h => by
      rw [h] at hn
      omega
    have hnext : (s.seq.col + 1#8).toNat = s.seq.col.toNat + 1 := by
      simp only [BitVec.toNat_add, BitVec.toNat_ofNat]
      omega
    have hn' : (s.seq.col + 1#8).toNat + n = s.seq.last.toNat := by omega
    have hrest := ih
      (s := (s.deliver (dataEvent (s.gram.read (cellAddr s.seq.pg.toNat s.seq.col.toNat)))).atSeq
        { s.seq with col := s.seq.col + 1#8 }) hst hpg hlast hn'
    rw [streamEvents_succ, State.deliverAll_cons, ← hnext]
    exact (emits_stream_next hst hpg (by omega) hne).append hrest

/-- A position and the span that follows it, up to the update of `SEQ` after the last column (43_refresh.md R102). -/
theorem emits_span {s : State} {n : Nat} (hst : s.seq.st = .pos) (hi : s.seq.i = 0#5) (hstrm : s.seq.strm = true)
    (hpg : s.seq.pg.toNat < 8) (hlast : s.seq.last.toNat < 128) (hn : s.seq.col.toNat + n = s.seq.last.toNat) :
    Emits s (triplet s.seq.x s.seq.pg ++ streamEvents s.gram s.seq.pg.toNat s.seq.col.toNat (n + 1))
      (advance ((s.deliverAll
        (triplet s.seq.x s.seq.pg ++ streamEvents s.gram s.seq.pg.toNat s.seq.col.toNat (n + 1))).atSeq
          { s.seq with st := .stream, i := 2#5, col := s.seq.last })) := by
  have hmove := advance_pos_two_stream
    (s := (s.deliverAll (triplet s.seq.x s.seq.pg)).atSeq { s.seq with i := 2#5 }) hst rfl hstrm
  have hpos := emits_triplet hst hi
  rw [hmove] at hpos
  rw [State.deliverAll_append]
  exact hpos.append (emits_stream rfl hpg hlast hn)

/-- A ranged refresh stops at its last column (43_refresh.md R101). -/
theorem completes_range {s : State} {page a z : Byte} (hpage : page.toNat < 8) (hz : z.toNat < 128)
    (haz : a.toNat ≤ z.toNat) :
    Completes (startStream page a z false s) (rangeEvents s.gram page a z)
      ((s.deliverAll (rangeEvents s.gram page a z)).finish false) := by
  have hspan := emits_span (s := startStream page a z false s) rfl rfl rfl hpage hz (Nat.add_sub_cancel' haz)
  rw [advance_stream_done rfl rfl (by simp [State.atSeq])] at hspan
  rw [rangeEvents, Nat.sub_add_comm haz]
  exact ⟨_, rfl, hspan⟩

/-! ## The pages of a full refresh (43_refresh.md R100) -/

/-- The sequencer at the head of page `p` of a full refresh. -/
def startPage (p : Nat) (s : State) : State := startStream (BitVec.ofNat 8 p) 0#8 127#8 true s

/-- The sequencer at the last column of page `p` of a full refresh. -/
def endPage (p : Nat) (s : State) : State :=
  s.atSeq { (startPage p s).seq with st := .stream, i := 2#5, col := 127#8 }

/-- After a page that is not the last comes the next. -/
theorem advance_endPage {p : Nat} (hp : p < 7) (s : State) : advance (endPage p s) = startPage (p + 1) s := by
  have hne : BitVec.ofNat 8 p ≠ 7#8 := fun h => by
    have hto := congrArg BitVec.toNat h
    simp only [BitVec.toNat_ofNat] at hto
    omega
  rw [advance_stream_nextPage rfl rfl rfl hne, startPage, BitVec.ofNat_add]
  rfl

/-- A page, up to the update of `SEQ` after its last column. -/
theorem emits_page (s : State) {p : Nat} (hp : p < 8) :
    Emits (startPage p s) (pageEvents s.gram p) (advance (endPage p (s.deliverAll (pageEvents s.gram p)))) := by
  have hto : (BitVec.ofNat 8 p).toNat = p := Nat.mod_eq_of_lt (by omega)
  have hlast : (127#8).toNat < 128 := by decide
  have hspan := emits_span (s := startPage p s) (n := 127) rfl rfl rfl (hto.trans_lt hp) hlast rfl
  have hevents : triplet (startPage p s).seq.x (startPage p s).seq.pg ++
      streamEvents s.gram (startPage p s).seq.pg.toNat (startPage p s).seq.col.toNat (127 + 1) =
        pageEvents s.gram p := by
    rw [show (startPage p s).seq.pg = BitVec.ofNat 8 p from rfl, hto]
    rfl
  exact hevents ▸ hspan

/-- The pages before the last lead to the head of the next. -/
theorem emits_pages (s : State) {n : Nat} (hn : n < 8) :
    Emits (startPage 0 s) ((List.range n).flatMap (pageEvents s.gram))
      (startPage n (s.deliverAll ((List.range n).flatMap (pageEvents s.gram)))) := by
  induction n with
  | zero => simpa using Emits.nil (startPage 0 s)
  | succ n ih =>
    have hpage := emits_page (s.deliverAll ((List.range n).flatMap (pageEvents s.gram))) (p := n) (by omega)
    rw [advance_endPage (by omega)] at hpage
    rw [List.range_succ, List.flatMap_append, List.flatMap_singleton, State.deliverAll_append]
    exact (ih (by omega)).append hpage

theorem completes_refresh (s : State) :
    Completes (startPage 0 s) (refreshEvents s.gram) ((s.deliverAll (refreshEvents s.gram)).finish false) := by
  have hpage := emits_page (s.deliverAll ((List.range 7).flatMap (pageEvents s.gram))) (p := 7) (by decide)
  rw [advance_stream_done rfl rfl fun _ => rfl] at hpage
  have hevents : refreshEvents s.gram = (List.range 7).flatMap (pageEvents s.gram) ++ pageEvents s.gram 7 := by
    rw [refreshEvents, List.range_succ, List.flatMap_append, List.flatMap_singleton]
  rw [hevents, State.deliverAll_append]
  exact (emits_pages s (by decide)).completes ⟨_, rfl, hpage⟩

end Sys2Proof.Machine
end

section
/-! Each operation's rule (40_framebuffer_ops.md to 43_refresh.md) beside its accept step and the run that follows
(44_sequencer.md R111 to R119): the same events, as many as the operation's bus writes, and the same end (R123). -/

namespace Sys2Proof.Machine

theorem busWrites_stalled {s : State} (hd : s.busDone = false) (es : List BusEvent) :
    busWrites es s = .fault .transportStalled :=
  if_neg (by simp [hd])

/-- An operation that makes no bus write: accepted, it completes by its rule. -/
structure CompletesAtOnce (i : Instr) (s : State) : Prop where
  count : opBusWrites i s = 0
  accept : acceptOp i s = exec i s
  ends : ∀ t, exec i s = .next t → t.seq.st = .idle ∧ t.settles = s.settles

/-- An operation that sends events: its rule delivers them at once and ends; accepted, when it is the latched one, it
starts the sequencer on a run of them that ends in the same way. -/
structure SendsEvents (i : Instr) (s : State) (es : List BusEvent) (v : Bool) : Prop where
  count : es.length = opBusWrites i s
  rule : exec i s = andThen (busWrites es s) fun t => .next (t.finish v)
  accept : decodeRequest s.req = .ok i → ∃ q : Seq, acceptOp i s = .next (s.atSeq q) ∧
    Completes (s.atSeq q) es ((s.deliverAll es).finish v)

/-- What the rule of an operation that sends events leaves when it answers. -/
theorem SendsEvents.next {i : Instr} {s u : State} {es : List BusEvent} {v : Bool} (h : SendsEvents i s es v)
    (hx : exec i s = .next u) : u = (s.deliverAll es).finish v := by
  obtain ⟨t, ht, hu⟩ := andThen_eq_next.1 (h.rule ▸ hx)
  obtain ⟨-, rfl⟩ := busWrites_eq_next.1 ht
  exact (Host.Outcome.next.inj hu).symm

/-- The latched DATA has its operand in the latch's `A` field. -/
theorem decodeRequest_data {w : Word} {b : Byte} (h : decodeRequest w = .ok (.data b)) : aField w = b := by
  have hw := Encoded.request.inj (decodeRequest_eq_ok.1 h)
  simp only [careMask, careMask_values, eq_comm (a := mkRequest _ _ _ _), and_operandMask, BitVec.and_allOnes] at hw
  obtain ⟨-, -, -, -, ha⟩ := hw
  exact ha

/-- A walk of a whole list. -/
theorem completes_startList {s : State} {l : SeqList} {b : Byte} {bs : List Byte} (hl : seqRom s.params l = b :: bs) :
    Completes (startList l s) ((b :: bs).map cmdEvent)
      ((s.deliverAll ((b :: bs).map cmdEvent)).finish (l == .init)) :=
  completes_list (s := startList l s) rfl hl

theorem completesAtOnce_of_next {i : Instr} {s u : State} (hcount : opBusWrites i s = 0)
    (haccept : acceptOp i s = exec i s) (hx : exec i s = .next u) (hu : u.seq.st = .idle)
    (hs : u.settles = s.settles) : CompletesAtOnce i s :=
  ⟨hcount, haccept, fun _ ht => Host.Outcome.next.inj (hx.symm.trans ht) ▸ ⟨hu, hs⟩⟩

section
variable {s : State} (hidle : s.seq.st = .idle)
include hidle

theorem emitAndFinish_rule (es : List BusEvent) :
    whenIdle s (emitAndFinish es) = andThen (busWrites es s) fun t => .next (t.finish false) :=
  whenIdle_idle hidle

theorem init_cases : CompletesAtOnce .init s ∨ ∃ es v, SendsEvents .init s es v := by
  cases hok : s.busOk with
  | false =>
    refine .inl (completesAtOnce_of_next ?_ (acceptOp_init_invalid hok) (execInit_invalid hidle hok) hidle rfl)
    simp [opBusWrites, hok]
  | true =>
    refine .inr ⟨initSeq.map cmdEvent, true, ?_, ?_, fun _ => ⟨_, acceptOp_init_valid hok, ?_⟩⟩
    · simp [opBusWrites, hok, initSeq]
    · rw [show exec .init s = execInit s from rfl, execInit, whenIdle_idle hidle, if_pos hok]
      rfl
    · exact completes_startList rfl

theorem refrange_cases (page a z : Byte) :
    CompletesAtOnce (.refrange page a z) s ∨ ∃ es v, SendsEvents (.refrange page a z) s es v := by
  by_cases hvalid : page.toNat < 8 ∧ a.toNat < 128 ∧ z.toNat < 128
  · have hrange := rangeValid_eq_true.2 hvalid
    obtain haz | hza := le_or_gt a.toNat z.toNat
    · refine .inr ⟨rangeEvents s.gram page a z, false, ?_, ?_,
        fun _ => ⟨_, acceptOp_refrange_inOrder hvalid haz, ?_⟩⟩
      · simp [opBusWrites, hrange, haz, rangeEvents_length s.gram page haz]
      · exact (execRefrange_inOrder hidle hvalid haz).trans (emitAndFinish_rule hidle _)
      · obtain ⟨hpage, -, hz⟩ := hvalid
        exact completes_range hpage hz haz
    · have haccept := acceptOp_refrange_reversed (s := s) hvalid hza
      obtain ⟨hsetpos, hnoop, hrefuse⟩ := execRefrange_reversed hidle hvalid hza
      cases hpolicy : s.params.rangeReversed with
      | setposOnly =>
        refine .inr ⟨triplet a page, false, ?_, ?_, fun _ => ⟨_, haccept.trans (if_pos hpolicy), ?_⟩⟩
        · simp [opBusWrites, hrange, hza, hpolicy]
        · exact (hsetpos hpolicy).trans (emitAndFinish_rule hidle _)
        · exact completes_triplet rfl rfl rfl
      | noop =>
        refine .inl (completesAtOnce_of_next ?_ (haccept.trans (if_neg ?_)) (hnoop hpolicy) hidle rfl)
        · simp [opBusWrites, hrange, hza, hpolicy]
        · simp [hpolicy]
      | refuse =>
        refine .inl ⟨?_, haccept.trans (if_neg ?_), fun t ht => ?_⟩
        · simp [opBusWrites, hrange, hza, hpolicy]
        · simp [hpolicy]
        · cases (hrefuse hpolicy).symm.trans ht
  · refine .inl (completesAtOnce_of_next ?_ (acceptOp_refrange_invalid hvalid)
      (execRefrange_invalid hidle hvalid) hidle rfl)
    simp [opBusWrites, mt rangeValid_eq_true.1 hvalid]

/-- Every request operation, run when idle, completes at once or sends its events. -/
theorem operation_cases {i : Instr} (hop : i.opcode ≠ none) :
    CompletesAtOnce i s ∨ ∃ es v, SendsEvents i s es v := by
  cases i with
  | init => exact init_cases hidle
  | refrange page a z => exact refrange_cases hidle page a z
  | setpos x page =>
    exact .inr ⟨_, _, rfl, emitAndFinish_rule hidle (triplet x page),
      fun _ => ⟨_, rfl, completes_triplet rfl rfl rfl⟩⟩
  | data b =>
    refine .inr ⟨_, _, rfl, emitAndFinish_rule hidle [dataEvent b], fun hw => ⟨_, rfl, ?_⟩⟩
    rw [← decodeRequest_data hw]
    exact completes_data rfl
  | wake =>
    exact .inr ⟨_, _, rfl, emitAndFinish_rule hidle _, fun _ => ⟨_, rfl, completes_startList (l := .wake) rfl⟩⟩
  | sleep =>
    exact .inr ⟨_, _, rfl, emitAndFinish_rule hidle _, fun _ => ⟨_, rfl, completes_startList (l := .sleep) rfl⟩⟩
  | refresh =>
    exact .inr ⟨_, _, refreshEvents_length s.gram, (execRefresh_idle hidle).trans (emitAndFinish_rule hidle _),
      fun _ => ⟨_, rfl, completes_refresh s⟩⟩
  | pixset =>
    refine .inl ⟨rfl, rfl, fun t ht => ⟨?_, (exec_trace_of_bit31 ht rfl (by decide)).2⟩⟩
    obtain ⟨-, rfl⟩ := execPixset_eq_next.1 ht
    rfl
  | clear =>
    refine .inl ⟨rfl, rfl, fun t ht => ⟨?_, (exec_trace_of_bit31 ht rfl (by decide)).2⟩⟩
    obtain ⟨-, rfl⟩ := execClear_eq_next.1 ht
    rfl
  | pixget =>
    refine .inl ⟨rfl, rfl, fun t ht => ⟨?_, (exec_trace_of_bit31 ht rfl (by decide)).2⟩⟩
    obtain ⟨-, -, rfl⟩ := execPixget_eq_next.1 ht
    rfl
  | _ => exact absurd rfl hop

end

theorem exec_request_busy {i : Instr} {s : State} (hop : i.opcode ≠ none) (hbusy : s.busy = true) :
    exec i s = .refused .requestWhileBusy := by
  cases i with
  | init | setpos | data | wake | sleep | refresh | refrange | pixset | clear | pixget => exact if_pos hbusy
  | _ => exact absurd rfl hop

/-- A request operation answers a next state only from an idle one. -/
theorem idle_of_exec_next {i : Instr} {s t : State} (hop : i.opcode ≠ none) (h : exec i s = .next t) :
    s.seq.st = .idle := by
  by_contra hbusy
  rw [exec_request_busy hop (by simpa using hbusy)] at h
  cases h

/-- Settles O38: what is sent is sent by `busWrites`, which stalls. -/
theorem operationIsStuckWithoutTheTransport : Obligations.OperationIsStuckWithoutTheTransport := by
  intro i s hd hpos hidle
  by_cases hop : i.opcode = none
  · rw [exec_busRow hop, busWrites_stalled hd]
  · obtain hnone | ⟨es, v, hsends⟩ := operation_cases (hidle (Option.isSome_iff_ne_none.2 hop)) hop
    · exact absurd hnone.count hpos.ne'
    · rw [hsends.rule, busWrites_stalled hd]
      rfl

/-- Settles O42: the settle count grows by the events delivered, none for an operation that completes at once. -/
theorem everyOperationMakesItsBusWrites : Obligations.EveryOperationMakesItsBusWrites := by
  intro i s t h
  by_cases hop : i.opcode = none
  · rw [exec_busRow hop] at h
    obtain ⟨-, rfl⟩ := busWrites_eq_next.1 h
    rw [State.deliverAll_settles, opBusWrites_busRow hop]
  · obtain hnone | ⟨es, v, hsends⟩ := operation_cases (idle_of_exec_next hop h) hop
    · rw [hnone.count, (hnone.ends t h).2, Nat.add_zero]
    · rw [hsends.next h, ← hsends.count]
      rfl

/-- Settles O40: the accept step, and the run of the operation's events. -/
theorem stepsAgreeWithTheOperationRule : Obligations.StepsAgreeWithTheOperationRule := by
  intro s w rest hp hgrain hd
  refine ⟨fun e hw => ?_, fun i u hw hx => ?_⟩
  · have hstep : step s = .next ((s.latch w rest).done false) := by
      rw [step_presents hp, acceptRequest, hw]
    exact ⟨_, stepsOf_succ hstep 0, rfl, rfl, rfl, rfl, rfl⟩
  · have hop : i.opcode ≠ none := by simp [decodeRequest_opcode hw]
    have hstep := step_accepts hp hgrain hw
    rw [show opBusWrites i s = opBusWrites i (s.latch w rest) from rfl]
    obtain hnone | ⟨es, v, hsends⟩ := operation_cases (s := s.latch w rest) hp.idle hop
    · rw [hnone.accept] at hstep
      rw [hnone.count]
      obtain ⟨hend, -⟩ := hnone.ends u hx
      exact ⟨u, stepsOf_succ (hstep.trans hx) 0, hend, rfl, rfl, rfl, rfl, rfl, fun k _ _ => by omega⟩
    · obtain ⟨q, haccept, p, hidle, hrun⟩ := hsends.accept hw
      obtain ⟨hrst, -⟩ := hp
      obtain ⟨hend, hbefore⟩ := hrun.steps ⟨hrst, hgrain, hd⟩
      rw [haccept] at hstep
      rw [hsends.next hx, ← hsends.count, Nat.add_comm]
      refine ⟨_, (stepsOf_succ hstep _).trans hend, hidle, rfl, rfl, rfl, rfl, rfl, fun k hk hlt => ?_⟩
      cases k with
      | zero => exact absurd hk (Nat.lt_irrefl 0)
      | succ k =>
        obtain ⟨x, hx', hbusy⟩ := hbefore k (Nat.lt_of_succ_lt_succ hlt)
        exact ⟨x, (stepsOf_succ hstep k).trans hx', hbusy⟩

end Sys2Proof.Machine
end

section
/-! Where a step stops (60_exceptions.md R138, R143): an operation issued while busy is refused, and from a legal state,
with a transport that answers or one bus write at a time, a step stops at two refusals only. -/

namespace Sys2Proof.Machine

/-- Settles O39: every request operation runs under the guard `whenIdle`. -/
theorem requestWhileBusyIsRefused : Obligations.RequestWhileBusyIsRefused :=
  fun _ _ hop hbusy => exec_request_busy (Option.isSome_iff_ne_none.1 hop) (by simpa using hbusy)

/-! ## The step of a busy sequencer -/

theorem busStep_answers {s : State} {e : BusEvent} (he : seqEvent s = .ok e) : ∃ t, busStep s = .next t := by
  cases hd : s.busDone with
  | true => exact ⟨_, busStep_eq_next.2 ⟨e, he, .inl ⟨hd, rfl⟩⟩⟩
  | false => exact ⟨_, busStep_eq_next.2 ⟨e, he, .inr ⟨hd, rfl⟩⟩⟩

/-- With a transport that answers, a row step makes its bus writes, at a position with no row the one of its formula. -/
theorem rowStep_answers {s : State} {e : BusEvent} (hd : s.busDone = true) (he : seqEvent s = .ok e) :
    ∃ t, rowStep s = .next t := by
  unfold rowStep
  split
  · next i n hrow =>
    obtain ⟨hop, -⟩ := fetchRow_row hrow
    exact ⟨_, andThen_eq_next.2 ⟨_, (exec_busRow hop s).trans (busWrites_done hd), rfl⟩⟩
  · rw [he]
    exact ⟨_, andThen_eq_next.2 ⟨_, busWrites_done hd, rfl⟩⟩

theorem busyStep_answers {s : State} {e : BusEvent} (hd : s.busDone = true ∨ s.grain = .busWrite)
    (he : seqEvent s = .ok e) : ∃ t, busyStep s = .next t := by
  unfold busyStep
  cases hgrain : s.grain with
  | operation => exact rowStep_answers (hd.resolve_right (by simp [hgrain])) he
  | busWrite => exact busStep_answers he

/-! ## The step that takes a request -/

/-- What becomes of an operation that no fault stops: a next state, or one of the two refusals of 60_exceptions.md R143,
with its cause. -/
inductive AnswersOrRefuses (i : Instr) (p : Params) : Result → Prop
  | answers (t : State) : AnswersOrRefuses i p (.next t)
  | reversedRange (hpolicy : p.rangeReversed = .refuse) : AnswersOrRefuses i p (.refused .reversedRange)
  | pixgetOutside {x y : Byte} (hi : i = .pixget x y) (hout : ¬(x.toNat < 128 ∧ y.toNat < 64)) :
      AnswersOrRefuses i p (.refused .pixgetOutside)

theorem AnswersOrRefuses.of_next {i : Instr} {p : Params} {r : Result} {t : State} (h : r = .next t) :
    AnswersOrRefuses i p r :=
  h ▸ .answers t

section
variable {s : State} (hidle : s.seq.st = .idle)
include hidle

/-- A REFRANGE that makes no bus write is refused under the policy `refuse` only. -/
theorem refrange_answersOrRefuses {page a z : Byte} (hcount : opBusWrites (.refrange page a z) s = 0) :
    AnswersOrRefuses (.refrange page a z) s.params (execRefrange page a z s) := by
  by_cases hvalid : page.toNat < 8 ∧ a.toNat < 128 ∧ z.toNat < 128
  · have hrange := rangeValid_eq_true.2 hvalid
    obtain haz | hza := le_or_gt a.toNat z.toNat
    · simp [opBusWrites, hrange, haz] at hcount
    · obtain ⟨-, hnoop, hrefuse⟩ := execRefrange_reversed hidle hvalid hza
      cases hpolicy : s.params.rangeReversed with
      | setposOnly => simp [opBusWrites, hrange, Nat.not_le.2 hza, hpolicy] at hcount
      | noop => exact .of_next (hnoop hpolicy)
      | refuse => exact hrefuse hpolicy ▸ .reversedRange hpolicy
  · exact .of_next (execRefrange_invalid hidle hvalid)

theorem pixget_answersOrRefuses (x y : Byte) : AnswersOrRefuses (.pixget x y) s.params (execPixget x y s) := by
  by_cases hin : x.toNat < 128 ∧ y.toNat < 64
  · exact .of_next (execPixget_eq_next.2 ⟨hidle, pixelInRange_eq_true.2 hin, rfl⟩)
  · exact execPixget_outside hidle hin ▸ .pixgetOutside rfl hin

/-- An operation that makes no bus write waits for no transport. -/
theorem exec_answersOrRefuses_of_no_busWrites {i : Instr} (hop : i.opcode ≠ none) (hcount : opBusWrites i s = 0) :
    AnswersOrRefuses i s.params (exec i s) := by
  cases i with
  | init =>
    have hok : s.busOk = false := by simpa [opBusWrites] using hcount
    exact .of_next (execInit_invalid hidle hok)
  | refrange page a z => exact refrange_answersOrRefuses hidle hcount
  | pixset x y color => exact .of_next (execPixset_eq_next.2 ⟨hidle, rfl⟩)
  | clear => exact .of_next (execClear_eq_next.2 ⟨hidle, rfl⟩)
  | pixget x y => exact pixget_answersOrRefuses hidle x y
  | setpos | data | wake | sleep | refresh => simp [opBusWrites] at hcount
  | _ => exact absurd rfl hop

theorem exec_answersOrRefuses {i : Instr} (hop : i.opcode ≠ none) (hd : s.busDone = true) :
    AnswersOrRefuses i s.params (exec i s) := by
  obtain hnone | ⟨es, v, hsends⟩ := operation_cases hidle hop
  · exact exec_answersOrRefuses_of_no_busWrites hidle hop hnone.count
  · rw [hsends.rule, busWrites_done hd]
    exact .answers _

/-- The accept step makes no bus write, so it waits for no transport. -/
theorem acceptOp_answersOrRefuses {i : Instr} (hop : i.opcode ≠ none) (hw : decodeRequest s.req = .ok i) :
    AnswersOrRefuses i s.params (acceptOp i s) := by
  obtain hnone | ⟨es, v, hsends⟩ := operation_cases hidle hop
  · rw [hnone.accept]
    exact exec_answersOrRefuses_of_no_busWrites hidle hop hnone.count
  · obtain ⟨q, haccept, -⟩ := hsends.accept hw
    exact .of_next haccept

end

/-- The step that takes a decoded request runs the operation, or accepts it. -/
theorem step_answersOrRefuses {s : State} {w : Word} {rest : List Word} {i : Instr} (hp : s.presents w rest)
    (hw : decodeRequest w = .ok i) (hd : s.busDone = true ∨ s.grain = .busWrite) :
    AnswersOrRefuses i s.params (step s) := by
  have hop : i.opcode ≠ none := by simp [decodeRequest_opcode hw]
  have hidle : (s.latch w rest).seq.st = .idle := hp.idle
  cases hgrain : s.grain with
  | operation =>
    rw [step_runs hp hgrain hw]
    exact exec_answersOrRefuses hidle hop (hd.resolve_right (by simp [hgrain]))
  | busWrite =>
    rw [step_accepts hp hgrain hw]
    exact acceptOp_answersOrRefuses hidle hop hw

/-- Settles O48: a legal position has its event, and of what a request can start, the two refusals alone stop. -/
theorem legalStepNeverStops : Obligations.LegalStepNeverStops := by
  intro s hlegal hd
  cases hrst : s.rst with
  | true => exact .inl ⟨applyReset s, by simp [step, hrst]⟩
  | false =>
    by_cases hidle : s.seq.st = .idle
    · cases hq : s.requests with
      | nil => exact .inl ⟨s.quiet, by simp [step, hrst, hidle, hq]⟩
      | cons w rest =>
        have hp : s.presents w rest := ⟨hrst, hidle, hq⟩
        cases hw : decodeRequest w with
        | error e => exact .inl ⟨(s.latch w rest).done false, by simp [step_presents hp, acceptRequest, hw]⟩
        | ok i =>
          have hstep := step_answersOrRefuses hp hw hd
          generalize step s = r at hstep ⊢
          cases hstep with
          | answers t => exact .inl ⟨t, rfl⟩
          | reversedRange hpolicy => exact .inr (.inl ⟨rfl, hpolicy⟩)
          | pixgetOutside hi hout => exact .inr (.inr ⟨rfl, w, rest, _, _, hp, hi ▸ hw, hout⟩)
    · obtain ⟨-, hseq, -⟩ := legal_iff.1 hlegal
      obtain ⟨e, he⟩ := seqEvent_of_seqLegal hidle hseq
      rw [step_busy hrst hidle]
      exact .inl (busyStep_answers hd he)

end Sys2Proof.Machine
end

section
/-! ASSUMED sink: INIT sets the display's pointers and else only settings the sink does not track
(70_reset_and_hazards.md R160; 20_memory.md R48; log entry 16). -/

namespace Sys2Proof.Machine

/-- The command bytes that move a pointer of the sink (20_memory.md R48). -/
def movesPointer (b : Byte) : Bool :=
  b.extractLsb' 3 5 = 0b10110#5 ∨ b.extractLsb' 4 4 = 0b0001#4 ∨ b.extractLsb' 4 4 = 0b0000#4

/-- Each of these command bytes is a setting that moves no pointer, or the argument of one, and every argument is
there; at the start an argument is due or not. -/
def onlySettings : (argDue : Bool) → List Byte → Bool
  | argDue, [] => !argDue
  | true, _ :: bs => onlySettings false bs
  | false, b :: bs => !movesPointer b && onlySettings (twoByteCommands.contains b) bs

theorem Display.command_setting {b : Byte} (hb : movesPointer b = false) (d : Display) :
    d.command b = { d with argPending := twoByteCommands.contains b } := by
  obtain ⟨hpage, hhi, hlo⟩ : b.extractLsb' 3 5 ≠ 0b10110#5 ∧ b.extractLsb' 4 4 ≠ 0b0001#4 ∧
      b.extractLsb' 4 4 ≠ 0b0000#4 := by simpa [movesPointer] using hb
  rw [Display.command, if_neg hpage, if_neg hhi, if_neg hlo]

/-- An argument byte is swallowed, whatever it spells. -/
theorem Display.event_argument {d : Display} (h : d.argPending = true) (b : Byte) :
    d.event (cmdEvent b) = { d with argPending := false } := by
  simp [Display.event, cmdEvent, h]

/-- After the arguments of its settings the sink waits for none. -/
theorem Display.run_onlySettings {bs : List Byte} {d : Display} (h : onlySettings d.argPending bs = true) :
    d.run (bs.map cmdEvent) = { d with argPending := false } := by
  induction bs generalizing d with
  | nil =>
    have harg : d.argPending = false := by simpa [onlySettings] using h
    rw [← harg]
    rfl
  | cons b bs ih =>
    change (d.event (cmdEvent b)).run (bs.map cmdEvent) = _
    cases harg : d.argPending with
    | true =>
      rw [Display.event_argument harg]
      exact ih (by simpa only [harg, onlySettings] using h)
    | false =>
      obtain ⟨hb, hbs⟩ : movesPointer b = false ∧ onlySettings (twoByteCommands.contains b) bs = true := by
        simpa only [harg, onlySettings, Bool.and_eq_true, Bool.not_eq_true'] using h
      rw [Display.event_cmd harg, Display.command_setting hb]
      exact ih hbs

/-- Settings change nothing that the sink tracks. -/
theorem Display.run_settings {bs : List Byte} (hbs : onlySettings false bs = true) {d : Display}
    (h : d.argPending = false) : d.run (bs.map cmdEvent) = d := by
  rw [Display.run_onlySettings (h ▸ hbs), ← h]

/-- The two column bytes of 0, low half first, set the column. -/
theorem Display.run_columnZero {d : Display} (h : d.argPending = false) :
    d.run ([colLo 0x00#8, colHi 0x00#8].map cmdEvent) = { d with dc := 0#8 } := by
  have hcol : ∀ c : Byte, (0x00#8 : Byte).extractLsb' 4 4 ++
      (c.extractLsb' 4 4 ++ (0x00#8 : Byte).extractLsb' 0 4).extractLsb' 0 4 = 0#8 := by decide
  simp only [Display.run, List.map_cons, List.map_nil, List.foldl_cons, List.foldl_nil, Display.event_cmd, h,
    Display.command_colLo, Display.command_colHi, hcol]

theorem Display.run_pageZero {d : Display} (h : d.argPending = false) :
    d.run ([pageSel 0x00#8].map cmdEvent) = { d with dp := 0#3 } :=
  (Display.event_cmd h _).trans (Display.command_pageSel (by decide) d)

/-- `INIT_SEQ` by what its bytes are to the sink: column 0 and page 0, and settings around them (30_encoding.md R58). -/
theorem initSeq_eq_pointers_settings :
    initSeq = [0xAE#8] ++ [colLo 0x00#8, colHi 0x00#8] ++ [0x40#8] ++ [pageSel 0x00#8] ++ initSeq.drop 5 := rfl

/-- `INIT_SEQ` sets both pointers to 0 and nothing else. -/
theorem Display.run_initSeq {d : Display} (h : d.argPending = false) :
    d.run (initSeq.map cmdEvent) = { d with dp := 0#3, dc := 0#8 } := by
  have hoff : onlySettings false [0xAE#8] = true := by decide
  have hline : onlySettings false [0x40#8] = true := by decide
  have hrest : onlySettings false (initSeq.drop 5) = true := by decide
  rw [initSeq_eq_pointers_settings]
  simp only [List.map_append, Display.run_append, Display.run_settings, Display.run_columnZero, Display.run_pageZero,
    hoff, hline, hrest, h]

/-- What a completed INIT adds to TRACE over a valid transport. -/
theorem execInit_trace {s t : State} (hok : s.busOk = true) (h : execInit s = .next t) :
    t.trace = s.trace ++ initSeq.map cmdEvent := by
  obtain ⟨-, h⟩ := whenIdle_eq_next.1 h
  rw [if_pos hok] at h
  obtain ⟨u, hu, ht⟩ := andThen_eq_next.1 h
  obtain ⟨-, rfl⟩ := busWrites_eq_next.1 hu
  injection ht with ht
  simp [← ht, hok]

/-- Settles O57: INIT's events are `INIT_SEQ`'s. -/
theorem initMovesThePositionOnTheSink : Obligations.InitMovesThePositionOnTheSink := by
  intro s t d hok h harg
  refine ⟨_, execInit_trace hok h, ?_⟩
  rw [Display.run_initSeq harg]
  exact ⟨rfl, rfl, rfl, harg⟩

end Sys2Proof.Machine
end

section
/-! What reset leaves (70_reset_and_hazards.md R151, 10_state.md R21). -/

namespace Sys2Proof.Machine

/-- 60_exceptions.md R137: reset overrides everything. -/
theorem step_reset {s : State} (hrst : s.rst = true) : step s = .next (applyReset s) :=
  if_pos hrst

/-- Settles O44: the state after reset by its definition, and a step with `rst` is `applyReset`. -/
theorem resetLeavesTheStatedValues : Obligations.ResetLeavesTheStatedValues :=
  ⟨fun p c _ _ => cell_of_gram_nil rfl p c, rfl, rfl, rfl, rfl, rfl, rfl, rfl, fun s hrst =>
    ⟨applyReset s, step_reset hrst, fun p c _ _ => cell_of_gram_nil (applyReset_gram s) p c,
      rfl, rfl, rfl, rfl, rfl, rfl, applyReset_trace_idle⟩⟩

end Sys2Proof.Machine
end

section
/-! Decoding and encoding are inverse (30_encoding.md R50 to R60; log entry 14): a request word decodes to the
instruction whose encoding it is in the bits that instruction reads, a bus word or pair to the one well-formed row
whose encoding it is. -/

namespace Sys2Proof.Machine

/-! ## The words of 95_test_vectors.md and of the patterns of 30_encoding.md -/

/-- Settles O1: the decoder evaluated on each word. -/
theorem requestWordsDecodeToTheirOperations : Obligations.RequestWordsDecodeToTheirOperations := by
  unfold Obligations.RequestWordsDecodeToTheirOperations
  decide

/-- Settles O2: the decoder evaluated on each word. -/
theorem busWordsDecodeToTheirRows : Obligations.BusWordsDecodeToTheirRows := by
  unfold Obligations.BusWordsDecodeToTheirRows
  decide

/-! ## Request words -/

/-- The encoder writes the bits that an operation ignores as zeros. -/
theorem and_careMask_of_encode {i : Instr} {w : Word} (h : encode i = .request w) : w &&& careMask i = w := by
  cases i with
  | init | setpos | data | wake | sleep | refresh | refrange | pixset | clear | pixget =>
    injection h with h
    subst h
    simp only [careMask, careMask_values, and_operandMask, opField_mkRequest, zField_mkRequest, cField_mkRequest,
      bField_mkRequest, aField_mkRequest, BitVec.and_allOnes, BitVec.and_zero, BitVec.ofNat_eq_ofNat, and_self]
  | _ => cases h

/-! ## Bus words -/

/-- A row of one event is encoded as that event's word. -/
theorem encode_of_rowEvents {i : Instr} {p : Params} {e : BusEvent} (h : rowEvents p i = [e]) :
    encode i = .bus e.word := by
  cases i with
  | init | setpos | data | wake | sleep | refresh | refrange | pixset | clear | pixget => cases h
  | busContrast | busMuxratio | busDispoffset | busOscdiv | busD8 | busPrecharge | busCompins | busVcomh | busCpenable
  | busCpdisable => cases h
  | _ =>
    injection h with h
    subst h
    rfl

theorem encode_of_decodeBus {w : BitVec 16} {i : Instr} (h : decodeBus w = .ok i) : encode i = .bus w := by
  obtain ⟨e, rfl⟩ := decodeBus_event h
  exact encode_of_rowEvents ((decodeBus_row h).2 State.reset.params)

/-- Of the instructions, the triplet rows with field 0 alone are not well formed. -/
theorem wellFormed_eq_false {i : Instr} :
    i.wellFormed = false ↔ i = .busPagesel 0#3 ∨ i = .busColhi 0#4 ∨ i = .busCollo 0#4 := by
  cases i <;> simp [Instr.wellFormed]

/-- The words of the triplet rows with field 0 are named by INIT's rows (log entry 14). -/
theorem wellFormed_of_decodeBus {w : BitVec 16} {i : Instr} (h : decodeBus w = .ok i) : i.wellFormed = true := by
  rw [← Bool.not_eq_false, wellFormed_eq_false]
  have hw := encode_of_decodeBus h
  rintro (rfl | rfl | rfl) <;>
  · injection hw with hw
    subst hw
    exact absurd h (by decide)

/-- The register-select value tells a data byte from every row with a fixed word (30_encoding.md R56). -/
theorem decodeBus_data (b : Byte) : decodeBus (Config.rsData ++ b) = .ok (.busData b) := by
  have hcmd : ∀ row ∈ fixedBusRows, row.1.extractLsb' 8 8 ≠ Config.rsData := by decide
  have hnone : fixedBusRows.lookup (Config.rsData ++ b) = none :=
    List.lookup_eq_none_iff.2 fun row hrow => bne_iff_ne.2 fun hw =>
      hcmd row hrow (hw ▸ BitVec.extractLsb'_append_eq_left)
  simp only [decodeBus, hnone, BitVec.extractLsb'_append_eq_left, BitVec.extractLsb'_append_eq_right, if_true]

theorem decodeBus_of_encode {w : BitVec 16} {i : Instr} (hi : i.wellFormed = true) (h : encode i = .bus w) :
    decodeBus w = .ok i := by
  cases i with
  | init | setpos | data | wake | sleep | refresh | refrange | pixset | clear | pixget => cases h
  | busContrast | busMuxratio | busDispoffset | busOscdiv | busD8 | busPrecharge | busCompins | busVcomh | busCpenable
  | busCpdisable => cases h
  | busPagesel x | busColhi x | busCollo x =>
    injection h with h
    subst h
    revert x
    decide
  | busData b =>
    injection h with h
    subst h
    exact decodeBus_data b
  | _ =>
    injection h with h
    subst h
    rfl

/-- A bus word decodes to the one well-formed row whose encoding it is. -/
theorem decodeBus_eq_ok {w : BitVec 16} {i : Instr} :
    decodeBus w = .ok i ↔ i.wellFormed = true ∧ encode i = .bus w :=
  ⟨fun h => ⟨wellFormed_of_decodeBus h, encode_of_decodeBus h⟩, fun ⟨hi, h⟩ => decodeBus_of_encode hi h⟩

/-! ## Pairs of bus words -/

/-- A pair of bus words decodes to the one row whose encoding it is. -/
theorem decodeBusPair_eq_ok {w : Word} {i : Instr} : decodeBusPair w = .ok i ↔ encode i = .busPair w := by
  constructor
  · intro h
    have hrows : ∀ row ∈ pairBusRows, encode row.2 = .busPair row.1 := by decide
    exact hrows _ (decodeBusPair_mem h)
  · intro h
    cases i with
    | busContrast | busMuxratio | busDispoffset | busOscdiv | busD8 | busPrecharge | busCompins | busVcomh
    | busCpenable | busCpdisable =>
      injection h with h
      subst h
      rfl
    | _ => cases h

/-- No row that is encoded as a pair has a field. -/
theorem wellFormed_of_encode_busPair {w : Word} {i : Instr} (h : encode i = .busPair w) : i.wellFormed = true := by
  rw [← Bool.not_eq_false, wellFormed_eq_false]
  rintro (rfl | rfl | rfl) <;> cases h

/-! ## Decode and encode -/

/-- Settles O3, by the port of the encoding. -/
theorem decodeOfEncodeIsTheInstruction : Obligations.DecodeOfEncodeIsTheInstruction := by
  intro i hi
  cases h : encode i with
  | request w => exact decodeRequest_eq_ok.2 (by rw [and_careMask_of_encode h, h])
  | bus w => exact decodeBus_eq_ok.2 ⟨hi, h⟩
  | busPair w => exact decodeBusPair_eq_ok.2 h

/-- Settles O4. -/
theorem busWordsReencode : Obligations.BusWordsReencode :=
  ⟨fun _ _ => decodeBus_eq_ok.1, fun _ _ h =>
    have hw := decodeBusPair_eq_ok.1 h
    ⟨wellFormed_of_encode_busPair hw, hw⟩⟩

end Sys2Proof.Machine
end
